-- ==== Sys2Proof/Word.lean ====
section
/-! DEFINITION. The plain bit-vector names of the machine (spec/10_state.md R20, spec/20_memory.md R70). -/

namespace Sys2Proof

/-- One byte of memory or a byte half of R0 or R1 (R22, R70). -/
abbrev Byte := BitVec 8

/-- A 16-bit register or word (R20). -/
abbrev Word := BitVec 16

/-- A 20-bit address of the one address space (R70). -/
abbrev Addr := BitVec 20

end Sys2Proof
end

