-- ==== Sys2Proof/Syntax.lean ====
section
/-! DEFINITION. The instructions: one constructor per row of spec/opcode_table.json, and the operand forms of
spec/30_encoding.md R150 to R159. -/

namespace Sys2Proof

/-- Operation size `.B` or `.W` (R12, R151). -/
inductive Size | b | w
  deriving DecidableEq, Repr

/-- An address register (R24). -/
inductive AReg | a0 | a1
  deriving DecidableEq, Repr

/-- A data register code of R150: R0L, R0H, R1L, R1H at `.B`, and R0, R1, R2, R3 at `.W`. -/
inductive DReg | d0 | d1 | d2 | d3
  deriving DecidableEq, Repr

/-- A 16-bit general register (R91). -/
inductive Reg16 | r0 | r1 | r2 | r3 | a0 | a1
  deriving DecidableEq, Repr

/-- A byte half of R0 (R152, R153). -/
inductive Half | r0l | r0h
  deriving DecidableEq, Repr

/-- The two 32-bit pairs of data registers (R23). -/
inductive DPair | r2r0 | r3r1
  deriving DecidableEq, Repr

/-- The three 32-bit pairs of `JMPI.A`, `JSRI.A` and `STC PC` (R99). -/
inductive Pair | r2r0 | r3r1 | a1a0
  deriving DecidableEq, Repr

/-- The memory modes of the 4-bit operand field (R150 codes 0110 to 1111). -/
inductive Ea
  | ind (a : AReg)
  | rel8 (a : AReg) (d : BitVec 8)
  | sb8 (d : BitVec 8)
  | fb8 (d : BitVec 8)
  | rel16 (a : AReg) (d : BitVec 16)
  | sb16 (d : BitVec 16)
  | abs16 (d : BitVec 16)
  deriving DecidableEq, Repr

/-- A general operand (R150). -/
inductive Operand
  | data (r : DReg)
  | addr (a : AReg)
  | mem (e : Ea)
  deriving DecidableEq, Repr

/-- The memory modes of the short formats (R152, R153). -/
inductive ShortMem
  | sb8 (d : BitVec 8)
  | fb8 (d : BitVec 8)
  | abs16 (d : BitVec 16)
  deriving DecidableEq, Repr

/-- The 3-bit short destination (R152). -/
inductive ShortDest
  | half (h : Half)
  | mem (m : ShortMem)
  deriving DecidableEq, Repr

/-- The 2-bit short source (R153); `other` is the half of R0 the rule pairs with the destination. -/
inductive ShortSrc
  | other
  | mem (m : ShortMem)
  deriving DecidableEq, Repr

/-- A generic immediate, which carries the size of its instruction (R155). -/
inductive Imm
  | b (v : BitVec 8)
  | w (v : BitVec 16)
  deriving DecidableEq, Repr

/-- A bit operand of the 7Eh group (R156). -/
inductive BitOp
  | reg (r : Reg16) (n : BitVec 4)
  | ind (a : AReg)
  | rel8 (a : AReg) (base : BitVec 8)
  | sb8 (k : BitVec 8)
  | fb8 (k : BitVec 8)
  | rel16 (a : AReg) (base : BitVec 16)
  | sb16 (k : BitVec 16)
  | abs16 (k : BitVec 16)
  deriving DecidableEq, Repr

/-- The memory modes of the indirect jumps (R448). -/
inductive JmpEa
  | ind (a : AReg)
  | rel8 (a : AReg) (d : BitVec 8)
  | sb8 (d : BitVec 8)
  | fb8 (d : BitVec 8)
  | rel20 (a : AReg) (d : BitVec 20)
  | sb16 (d : BitVec 16)
  | abs16 (d : BitVec 16)
  deriving DecidableEq, Repr

/-- Source of `JMPI.W` and `JSRI.W` (R448). -/
inductive JmpW
  | reg (r : Reg16)
  | mem (e : JmpEa)
  deriving DecidableEq, Repr

/-- Source of `JMPI.A` and `JSRI.A` (R449). -/
inductive JmpA
  | pair (p : Pair)
  | mem (e : JmpEa)
  deriving DecidableEq, Repr

/-- Destination of `STC PC` (R527). -/
inductive PcDest
  | pair (p : Pair)
  | mem (e : Ea)
  deriving DecidableEq, Repr

/-- Control registers (R157). -/
inductive CReg | intbl | intbh | flg | isp | sp | sb | fb
  deriving DecidableEq, Repr

/-- Flags named by `FSET` and `FCLR` (R158). -/
inductive FlagName | c | d | z | s | b | o | i | u
  deriving DecidableEq, Repr

/-- The fourteen conditions (R159). -/
inductive Cond | geu | gtu | eq | n | ltu | leu | ne | pz | le | o | ge | gt | no | lt
  deriving DecidableEq, Repr

/-- The nibble directions of `MOVDir` (R218): source nibble, then destination nibble. -/
inductive Dir | ll | hl | lh | hh
  deriving DecidableEq, Repr

/-- One constructor per row of spec/opcode_table.json, in the table's order. -/
inductive Instr
  | brk
  | movBSHalfDest (h : Half) (m : ShortMem)
  | nop
  | movBSSrcHalf (h : Half) (src : ShortSrc)
  | andBSSrc (h : Half) (src : ShortSrc)
  | orBSSrc (h : Half) (src : ShortSrc)
  | addBSSrc (h : Half) (src : ShortSrc)
  | subBSSrc (h : Half) (src : ShortSrc)
  | movBSSrcAn (a : AReg) (src : ShortSrc)
  | cmpBSSrc (h : Half) (src : ShortSrc)
  | bclrS (n : BitVec 3) (d : BitVec 8)
  | bsetS (n : BitVec 3) (d : BitVec 8)
  | bnotS (n : BitVec 3) (d : BitVec 8)
  | btstS (n : BitVec 3) (d : BitVec 8)
  | jmpS (d : BitVec 3)
  | jcnd8 (c : Cond) (d : BitVec 8)
  | muluSrc (sz : Size) (src dst : Operand)
  | movGSrc (sz : Size) (src dst : Operand)
  | steAbs20 (sz : Size) (src : Operand) (a : BitVec 20)
  | steDsp20 (sz : Size) (src : Operand) (d : BitVec 20)
  | steA1A0 (sz : Size) (src : Operand)
  | movGToSp (sz : Size) (src : Operand) (d : BitVec 8)
  | pushG (sz : Size) (src : Operand)
  | neg (sz : Size) (dst : Operand)
  | rotR1H (sz : Size) (dst : Operand)
  | notG (sz : Size) (dst : Operand)
  | ldeAbs20 (sz : Size) (a : BitVec 20) (dst : Operand)
  | ldeDsp20 (sz : Size) (d : BitVec 20) (dst : Operand)
  | ldeA1A0 (sz : Size) (dst : Operand)
  | movGFromSp (sz : Size) (d : BitVec 8) (dst : Operand)
  | movGImm (v : Imm) (dst : Operand)
  | popG (sz : Size) (dst : Operand)
  | shlR1H (sz : Size) (dst : Operand)
  | shaR1H (sz : Size) (dst : Operand)
  | tstImm (v : Imm) (dst : Operand)
  | xorImm (v : Imm) (dst : Operand)
  | andGImm (v : Imm) (dst : Operand)
  | orGImm (v : Imm) (dst : Operand)
  | addGImm (v : Imm) (dst : Operand)
  | subGImm (v : Imm) (dst : Operand)
  | adcImm (v : Imm) (dst : Operand)
  | sbbImm (v : Imm) (dst : Operand)
  | cmpGImm (v : Imm) (dst : Operand)
  | divxSrc (sz : Size) (src : Operand)
  | rolc (sz : Size) (dst : Operand)
  | rorc (sz : Size) (dst : Operand)
  | divuSrc (sz : Size) (src : Operand)
  | divSrc (sz : Size) (src : Operand)
  | adcf (sz : Size) (dst : Operand)
  | abs (sz : Size) (dst : Operand)
  | mulSrc (sz : Size) (src dst : Operand)
  | xchg (sz : Size) (src : DReg) (dst : Operand)
  | ldcSrc (src : Operand) (c : CReg)
  | stcDest (c : CReg) (dst : Operand)
  | movDirToR0L (k : Dir) (src : Operand)
  | movDirFromR0L (k : Dir) (dst : Operand)
  | jmpiA (src : JmpA)
  | jsriA (src : JmpA)
  | jmpiW (src : JmpW)
  | jsriW (src : JmpW)
  | muluImm (v : Imm) (dst : Operand)
  | mulImm (v : Imm) (dst : Operand)
  | extsB (dst : Operand)
  | pusha (src : Ea)
  | ldipl (l : BitVec 3)
  | addQSp (v : BitVec 4)
  | stcPc (dst : PcDest)
  | jcnd16 (c : Cond) (d : BitVec 8)
  | bmcndC (c : Cond)
  | divuImm (v : Imm)
  | divImm (v : Imm)
  | pushGImm (v : Imm)
  | divxImm (v : Imm)
  | daddBReg
  | daddWReg
  | dsubBReg
  | dsubWReg
  | dadcBReg
  | dadcWReg
  | dsbbBReg
  | dsbbWReg
  | smovf (sz : Size)
  | smovb (sz : Size)
  | sstr (sz : Size)
  | addGSp (v : Imm)
  | daddBImm (v : BitVec 8)
  | daddWImm (v : BitVec 16)
  | dsubBImm (v : BitVec 8)
  | dsubWImm (v : BitVec 16)
  | dadcBImm (v : BitVec 8)
  | dadcWImm (v : BitVec 16)
  | dsbbBImm (v : BitVec 8)
  | dsbbWImm (v : BitVec 16)
  | ldctx (num : BitVec 16) (table : BitVec 20)
  | stctx (num : BitVec 16) (table : BitVec 20)
  | rmpa (sz : Size)
  | enter (v : BitVec 8)
  | exitd
  | extsW
  | wait
  | btstc (dst : BitOp)
  | btsts (dst : BitOp)
  | bmcnd (dst : BitOp) (c : Cond)
  | bntst (src : BitOp)
  | band (src : BitOp)
  | bnand (src : BitOp)
  | bor (src : BitOp)
  | bnor (src : BitOp)
  | bclrG (dst : BitOp)
  | bsetG (dst : BitOp)
  | bnotG (dst : BitOp)
  | btstG (src : BitOp)
  | bxor (src : BitOp)
  | bnxor (src : BitOp)
  | tstSrc (sz : Size) (src dst : Operand)
  | pushBS (h : Half)
  | addBSImm (v : BitVec 8) (dst : ShortDest)
  | xorSrc (sz : Size) (src dst : Operand)
  | subBSImm (v : BitVec 8) (dst : ShortDest)
  | andGSrc (sz : Size) (src dst : Operand)
  | popBS (h : Half)
  | andBSImm (v : BitVec 8) (dst : ShortDest)
  | orGSrc (sz : Size) (src dst : Operand)
  | orBSImm (v : BitVec 8) (dst : ShortDest)
  | addGSrc (sz : Size) (src dst : Operand)
  | movWSImmAn (v : BitVec 16) (a : AReg)
  | incB (dst : ShortDest)
  | subGSrc (sz : Size) (src dst : Operand)
  | decB (dst : ShortDest)
  | adcSrc (sz : Size) (src dst : Operand)
  | incW (a : AReg)
  | movBZ (dst : ShortDest)
  | sbbSrc (sz : Size) (src dst : Operand)
  | notBS (dst : ShortDest)
  | cmpGSrc (sz : Size) (src dst : Operand)
  | pushWS (a : AReg)
  | movBSImm (v : BitVec 8) (dst : ShortDest)
  | addQ (sz : Size) (v : BitVec 4) (dst : Operand)
  | stz (v : BitVec 8) (dst : ShortDest)
  | cmpQ (sz : Size) (v : BitVec 4) (dst : Operand)
  | popWS (a : AReg)
  | stnz (v : BitVec 8) (dst : ShortDest)
  | movQ (sz : Size) (v : BitVec 4) (dst : Operand)
  | stzx (v1 v2 : BitVec 8) (dst : ShortDest)
  | rotImm (sz : Size) (n : BitVec 4) (dst : Operand)
  | movBSImmAn (v : BitVec 8) (a : AReg)
  | cmpBSImm (v : BitVec 8) (dst : ShortDest)
  | shlImm (sz : Size) (n : BitVec 4) (dst : Operand)
  | ldcImm (v : BitVec 16) (c : CReg)
  | shlLR1H (p : DPair)
  | shaLR1H (p : DPair)
  | pushc (c : CReg)
  | popc (c : CReg)
  | fset (f : FlagName)
  | fclr (f : FlagName)
  | mova (src : Ea) (r : Reg16)
  | shlLImm (n : BitVec 4) (p : DPair)
  | shaLImm (n : BitVec 4) (p : DPair)
  | int (n : BitVec 6)
  | pushm (list : BitVec 8)
  | popm (list : BitVec 8)
  | jmps (n : BitVec 8)
  | jsrs (n : BitVec 8)
  | shaImm (sz : Size) (n : BitVec 4) (dst : Operand)
  | decW (a : AReg)
  | rts
  | jmpW (d : BitVec 16)
  | jsrW (d : BitVec 16)
  | into
  | adjnz (sz : Size) (v : BitVec 4) (dst : Operand) (d : BitVec 8)
  | sbjnz (sz : Size) (v : BitVec 4) (dst : Operand) (d : BitVec 8)
  | reit
  | jmpA (a : BitVec 20)
  | jsrA (a : BitVec 20)
  | jmpB (d : BitVec 8)
  | und
  | ldintb (v : BitVec 20)
  deriving DecidableEq, Repr

end Sys2Proof
end

