-- ==== Sys2Proof/WellFormed.lean ====
section
/-! DEFINITION. Which instruction terms stand for an encoding the spec assigns: the operand restrictions of
spec/30_encoding.md R171, spec/20_memory.md R102 and decisions D19 and D20. -/

namespace Sys2Proof

/-- The size an immediate carries. -/
def Imm.size : Imm → Size
  | .b _ => .b
  | .w _ => .w

/-- The operand is A0 or A1. -/
def Operand.isAddr : Operand → Bool
  | .data _ => false
  | .addr _ => true
  | .mem _ => false

/-- With `.B`, source and destination are not both address registers (R102, R171). -/
def Operand.notBothAddr (sz : Size) (src dst : Operand) : Bool :=
  !(sz == .b && src.isAddr && dst.isAddr)

/-- `.B` with A0 or A1 on a page that does not describe it (D20). -/
def Operand.notByteAddr (sz : Size) (o : Operand) : Bool :=
  !(sz == .b && o.isAddr)

/-- The operand does not contain R1H, the shift count (R301). -/
def Operand.notCount (sz : Size) (o : Operand) : Bool :=
  match sz with
  | .b => o != .data .d3
  | .w => o != .data .d1

/-- The destinations `MUL` and `MULU` accept (R405). -/
def Operand.isMulDest (sz : Size) (o : Operand) : Bool :=
  match sz, o with
  | .b, .data r => r == .d0 || r == .d2
  | .w, .data r => r == .d0 || r == .d1
  | _, .addr a => a == .a0
  | _, .mem _ => true

/-- The destinations `EXTS.B` accepts (R349). -/
def Operand.isExtsDest : Operand → Bool
  | .data r => r == .d0 || r == .d2
  | .addr _ => false
  | .mem _ => true

/-- `[A0]` or `[A1]`, which `MOVA` and `PUSHA` do not accept (R215, R230). -/
def Ea.isInd : Ea → Bool
  | .ind _ => true
  | .rel8 _ _ => false
  | .sb8 _ => false
  | .fb8 _ => false
  | .rel16 _ _ => false
  | .sb16 _ => false
  | .abs16 _ => false

/-- The eight conditions of the 1-byte `JCnd` form (R159, R446); the other six have the 2-byte form (R447). -/
def Cond.inByteForm : Cond → Bool
  | .geu => true
  | .gtu => true
  | .eq => true
  | .n => true
  | .ltu => true
  | .leu => true
  | .ne => true
  | .pz => true
  | .le => false
  | .o => false
  | .ge => false
  | .gt => false
  | .no => false
  | .lt => false

/-- The term is an instruction the spec gives an encoding and a meaning (R171, D19, D20). -/
def Instr.wellFormed : Instr → Bool
  | .brk => true
  | .movBSHalfDest _ _ => true
  | .nop => true
  | .movBSSrcHalf _ _ => true
  | .andBSSrc _ _ => true
  | .orBSSrc _ _ => true
  | .addBSSrc _ _ => true
  | .subBSSrc _ _ => true
  | .movBSSrcAn _ _ => true
  | .cmpBSSrc _ _ => true
  | .bclrS _ _ => true
  | .bsetS _ _ => true
  | .bnotS _ _ => true
  | .btstS _ _ => true
  | .jmpS _ => true
  | .jcnd8 c _ => c.inByteForm
  | .muluSrc sz src dst => Operand.notBothAddr sz src dst && dst.isMulDest sz
  | .movGSrc sz src dst => Operand.notBothAddr sz src dst
  | .steAbs20 _ _ _ => true
  | .steDsp20 _ _ _ => true
  | .steA1A0 _ _ => true
  | .movGToSp _ _ _ => true
  | .pushG sz src => src.notByteAddr sz
  | .neg sz dst => dst.notByteAddr sz
  | .rotR1H sz dst => dst.notByteAddr sz && dst.notCount sz
  | .notG sz dst => dst.notByteAddr sz
  | .ldeAbs20 _ _ _ => true
  | .ldeDsp20 _ _ _ => true
  | .ldeA1A0 _ _ => true
  | .movGFromSp _ _ _ => true
  | .movGImm _ _ => true
  | .popG sz dst => dst.notByteAddr sz
  | .shlR1H sz dst => dst.notByteAddr sz && dst.notCount sz
  | .shaR1H sz dst => dst.notByteAddr sz && dst.notCount sz
  | .tstImm _ _ => true
  | .xorImm _ _ => true
  | .andGImm _ _ => true
  | .orGImm _ _ => true
  | .addGImm _ _ => true
  | .subGImm _ _ => true
  | .adcImm _ _ => true
  | .sbbImm _ _ => true
  | .cmpGImm _ _ => true
  | .divxSrc _ _ => true
  | .rolc sz dst => dst.notByteAddr sz
  | .rorc sz dst => dst.notByteAddr sz
  | .divuSrc _ _ => true
  | .divSrc _ _ => true
  | .adcf sz dst => dst.notByteAddr sz
  | .abs sz dst => dst.notByteAddr sz
  | .mulSrc sz src dst => Operand.notBothAddr sz src dst && dst.isMulDest sz
  | .xchg _ _ _ => true
  | .ldcSrc _ _ => true
  | .stcDest _ _ => true
  | .movDirToR0L _ src => !src.isAddr
  | .movDirFromR0L _ dst => !dst.isAddr && dst != .data .d0
  | .jmpiA _ => true
  | .jsriA _ => true
  | .jmpiW _ => true
  | .jsriW _ => true
  | .muluImm v dst => dst.isMulDest v.size
  | .mulImm v dst => dst.isMulDest v.size
  | .extsB dst => dst.isExtsDest
  | .pusha src => !src.isInd
  | .ldipl _ => true
  | .addQSp _ => true
  | .stcPc _ => true
  | .jcnd16 c _ => !c.inByteForm
  | .bmcndC _ => true
  | .divuImm _ => true
  | .divImm _ => true
  | .pushGImm _ => true
  | .divxImm _ => true
  | .daddBReg => true
  | .daddWReg => true
  | .dsubBReg => true
  | .dsubWReg => true
  | .dadcBReg => true
  | .dadcWReg => true
  | .dsbbBReg => true
  | .dsbbWReg => true
  | .smovf _ => true
  | .smovb _ => true
  | .sstr _ => true
  | .addGSp _ => true
  | .daddBImm _ => true
  | .daddWImm _ => true
  | .dsubBImm _ => true
  | .dsubWImm _ => true
  | .dadcBImm _ => true
  | .dadcWImm _ => true
  | .dsbbBImm _ => true
  | .dsbbWImm _ => true
  | .ldctx _ _ => true
  | .stctx _ _ => true
  | .rmpa _ => true
  | .enter _ => true
  | .exitd => true
  | .extsW => true
  | .wait => true
  | .btstc _ => true
  | .btsts _ => true
  | .bmcnd _ _ => true
  | .bntst _ => true
  | .band _ => true
  | .bnand _ => true
  | .bor _ => true
  | .bnor _ => true
  | .bclrG _ => true
  | .bsetG _ => true
  | .bnotG _ => true
  | .btstG _ => true
  | .bxor _ => true
  | .bnxor _ => true
  | .tstSrc sz src dst => Operand.notBothAddr sz src dst
  | .pushBS _ => true
  | .addBSImm _ _ => true
  | .xorSrc sz src dst => Operand.notBothAddr sz src dst
  | .subBSImm _ _ => true
  | .andGSrc sz src dst => Operand.notBothAddr sz src dst
  | .popBS _ => true
  | .andBSImm _ _ => true
  | .orGSrc sz src dst => Operand.notBothAddr sz src dst
  | .orBSImm _ _ => true
  | .addGSrc sz src dst => Operand.notBothAddr sz src dst
  | .movWSImmAn _ _ => true
  | .incB _ => true
  | .subGSrc sz src dst => Operand.notBothAddr sz src dst
  | .decB _ => true
  | .adcSrc sz src dst => Operand.notBothAddr sz src dst
  | .incW _ => true
  | .movBZ _ => true
  | .sbbSrc sz src dst => Operand.notBothAddr sz src dst
  | .notBS _ => true
  | .cmpGSrc sz src dst => Operand.notBothAddr sz src dst
  | .pushWS _ => true
  | .movBSImm _ _ => true
  | .addQ _ _ _ => true
  | .stz _ _ => true
  | .cmpQ _ _ _ => true
  | .popWS _ => true
  | .stnz _ _ => true
  | .movQ _ _ _ => true
  | .stzx _ _ _ => true
  | .rotImm sz _ dst => dst.notByteAddr sz
  | .movBSImmAn _ _ => true
  | .cmpBSImm _ _ => true
  | .shlImm sz _ dst => dst.notByteAddr sz
  | .ldcImm _ _ => true
  | .shlLR1H _ => true
  | .shaLR1H _ => true
  | .pushc _ => true
  | .popc _ => true
  | .fset _ => true
  | .fclr _ => true
  | .mova src _ => !src.isInd
  | .shlLImm _ _ => true
  | .shaLImm _ _ => true
  | .int _ => true
  | .pushm _ => true
  | .popm _ => true
  | .jmps n => 18 ≤ n.toNat
  | .jsrs n => 18 ≤ n.toNat
  | .shaImm sz _ dst => dst.notByteAddr sz
  | .decW _ => true
  | .rts => true
  | .jmpW _ => true
  | .jsrW _ => true
  | .into => true
  | .adjnz sz _ dst _ => dst.notByteAddr sz
  | .sbjnz sz _ dst _ => dst.notByteAddr sz
  | .reit => true
  | .jmpA _ => true
  | .jsrA _ => true
  | .jmpB _ => true
  | .und => true
  | .ldintb _ => true

/-- `SBJNZ` and `LDINTB`, second spellings whose words decode to `ADJNZ` and to two `LDC` (R192, R193). -/
def Instr.isAlias : Instr → Bool
  | .sbjnz _ _ _ _ => true
  | .ldintb _ => true
  | _ => false

end Sys2Proof
end

