-- ==== Sys2Proof/Decode.lean ====
section
/-! DEFINITION. The decoder, total on any bytes and rejecting by name, and the encoder: both written from the tables
of spec/30_encoding.md (R140 to R166). -/

namespace Sys2Proof

/-- Why a byte sequence is no instruction. -/
inductive DecodeError
  /-- An opcode or condition code no table assigns (R170). -/
  | unassigned
  /-- An operand code or operand value the instruction does not accept (R171). -/
  | reserved
  /-- The bytes end before the instruction does; a fetch never gives so few. -/
  | truncated
  deriving DecidableEq, Repr

/-- What a parser answers: a value and the bytes after it. -/
abbrev Parsed (α : Type) := Except DecodeError (α × List Byte)

/-- A parser of the instruction stream, which R76 reads in ascending address order. -/
abbrev Parser (α : Type) := List Byte → Parsed α

/-- Runs `p`, then the parser `f` chooses by its value. -/
def pthen {α β : Type} (p : Parser α) (f : α → Parser β) : Parser β := fun bs =>
  match p bs with
  | .ok (x, rest) => f x rest
  | .error e => .error e

/-- Reads nothing. -/
def pdone {α : Type} (x : α) : Parser α := fun bs => .ok (x, bs)

/-- Rejects by name. -/
def pfail {α : Type} (e : DecodeError) : Parser α := fun _ => .error e

/-! Fields of the instruction stream (R76, R155). -/

/-- One byte. -/
def take8 : Parser Byte
  | [] => .error .truncated
  | b :: rest => .ok (b, rest)

/-- A 16-bit field, low byte first. -/
def take16 : Parser Word :=
  pthen take8 fun lo => pthen take8 fun hi => pdone (hi ++ lo)

/-- A 20-bit field: three bytes, low byte first, the high nibble of the third byte 0 (R155, R171). -/
def take20 : Parser Addr :=
  pthen take16 fun lo => pthen take8 fun hi =>
    if hi.extractLsb' 4 4 = 0#4 then pdone (hi.extractLsb' 0 4 ++ lo) else pfail .reserved

/-- The bytes of a 16-bit field. -/
def le16 (v : BitVec 16) : List Byte := [v.extractLsb' 0 8, v.extractLsb' 8 8]

/-- The bytes of a 20-bit field. -/
def le20 (v : BitVec 20) : List Byte :=
  [v.extractLsb' 0 8, v.extractLsb' 8 8, 0#4 ++ v.extractLsb' 16 4]

/-- A first byte as R160 groups them: five bits and three bits. -/
def byte53 (top : BitVec 5) (low : BitVec 3) : Byte := top ++ low

/-- A second byte as R161 to R166 group them: two nibbles. -/
def byte44 (hi lo : BitVec 4) : Byte := hi ++ lo

/-! Register, size and condition codes (R150 to R159). -/

/-- Size bit (R151). -/
def Size.bit : Size → BitVec 1
  | .b => 0#1
  | .w => 1#1

/-- The size a size bit stands for (R151). -/
def sizeOf (v : BitVec 1) : Size := if v = 1#1 then .w else .b

/-- A0 is 0 and A1 is 1 in every one-bit field. -/
def AReg.bit : AReg → BitVec 1
  | .a0 => 0#1
  | .a1 => 1#1

/-- The address register of a one-bit field. -/
def aregOf (v : BitVec 1) : AReg := if v = 1#1 then .a1 else .a0

/-- R0L is 0 and R0H is 1 in the one-bit fields of R153. -/
def Half.bit : Half → BitVec 1
  | .r0l => 0#1
  | .r0h => 1#1

/-- The half of a one-bit field (R153). -/
def halfOf (v : BitVec 1) : Half := if v = 1#1 then .r0h else .r0l

/-- R2R0 is 0 and R3R1 is 1 (R308, R312). -/
def DPair.bit : DPair → BitVec 1
  | .r2r0 => 0#1
  | .r3r1 => 1#1

/-- The pair of a one-bit field. -/
def dpairOf (v : BitVec 1) : DPair := if v = 1#1 then .r3r1 else .r2r0

/-- Data register codes (R150). -/
def DReg.code : DReg → BitVec 2
  | .d0 => 0#2
  | .d1 => 1#2
  | .d2 => 2#2
  | .d3 => 3#2

/-- The data register of a code (R150). -/
def dregOf (v : BitVec 2) : DReg :=
  if v = 0#2 then .d0 else if v = 1#2 then .d1 else if v = 2#2 then .d2 else .d3

/-- Codes of the 16-bit registers (R156, R215). -/
def Reg16.code : Reg16 → BitVec 3
  | .r0 => 0#3
  | .r1 => 1#3
  | .r2 => 2#3
  | .r3 => 3#3
  | .a0 => 4#3
  | .a1 => 5#3

/-- The 16-bit register of a code; 110 and 111 are none (R165). -/
def reg16Of (v : BitVec 3) : Option Reg16 :=
  if v = 0#3 then some .r0 else if v = 1#3 then some .r1 else if v = 2#3 then some .r2
  else if v = 3#3 then some .r3 else if v = 4#3 then some .a0 else if v = 5#3 then some .a1 else none

/-- Control register codes (R157). -/
def CReg.code : CReg → BitVec 3
  | .intbl => 1#3
  | .intbh => 2#3
  | .flg => 3#3
  | .isp => 4#3
  | .sp => 5#3
  | .sb => 6#3
  | .fb => 7#3

/-- The control register of a code; 000 is none (R157). -/
def cregOf (v : BitVec 3) : Option CReg :=
  if v = 1#3 then some .intbl else if v = 2#3 then some .intbh else if v = 3#3 then some .flg
  else if v = 4#3 then some .isp else if v = 5#3 then some .sp else if v = 6#3 then some .sb
  else if v = 7#3 then some .fb else none

/-- Flag codes, the flag's bit number (R158). -/
def FlagName.code : FlagName → BitVec 3
  | .c => 0#3
  | .d => 1#3
  | .z => 2#3
  | .s => 3#3
  | .b => 4#3
  | .o => 5#3
  | .i => 6#3
  | .u => 7#3

/-- The flag of a code (R158). -/
def flagOf (v : BitVec 3) : FlagName :=
  if v = 0#3 then .c else if v = 1#3 then .d else if v = 2#3 then .z else if v = 3#3 then .s
  else if v = 4#3 then .b else if v = 5#3 then .o else if v = 6#3 then .i else .u

/-- The 4-bit condition codes (R159, middle column). -/
def Cond.code : Cond → BitVec 4
  | .geu => 0#4
  | .gtu => 1#4
  | .eq => 2#4
  | .n => 3#4
  | .ltu => 4#4
  | .leu => 5#4
  | .ne => 6#4
  | .pz => 7#4
  | .le => 8#4
  | .o => 9#4
  | .ge => 10#4
  | .gt => 12#4
  | .no => 13#4
  | .lt => 14#4

/-- The condition of a 4-bit code; 1011 and 1111 are none (R159). -/
def condOf (v : BitVec 4) : Option Cond :=
  if v = 0#4 then some .geu else if v = 1#4 then some .gtu else if v = 2#4 then some .eq
  else if v = 3#4 then some .n else if v = 4#4 then some .ltu else if v = 5#4 then some .leu
  else if v = 6#4 then some .ne else if v = 7#4 then some .pz else if v = 8#4 then some .le
  else if v = 9#4 then some .o else if v = 10#4 then some .ge else if v = 12#4 then some .gt
  else if v = 13#4 then some .no else if v = 14#4 then some .lt else none

/-- The condition bytes of `BMCnd dest` (R159, last column). -/
def Cond.byte : Cond → Byte
  | .geu => 0x00#8
  | .gtu => 0x01#8
  | .eq => 0x02#8
  | .n => 0x03#8
  | .ltu => 0xF8#8
  | .leu => 0xF9#8
  | .ne => 0xFA#8
  | .pz => 0xFB#8
  | .le => 0x04#8
  | .o => 0x05#8
  | .ge => 0x06#8
  | .gt => 0xFC#8
  | .no => 0xFD#8
  | .lt => 0xFE#8

/-- The condition of a condition byte; every other byte is reserved (R159, R264). -/
def condByteOf (v : Byte) : Option Cond :=
  if v = 0x00#8 then some .geu else if v = 0x01#8 then some .gtu else if v = 0x02#8 then some .eq
  else if v = 0x03#8 then some .n else if v = 0xF8#8 then some .ltu else if v = 0xF9#8 then some .leu
  else if v = 0xFA#8 then some .ne else if v = 0xFB#8 then some .pz else if v = 0x04#8 then some .le
  else if v = 0x05#8 then some .o else if v = 0x06#8 then some .ge else if v = 0xFC#8 then some .gt
  else if v = 0xFD#8 then some .no else if v = 0xFE#8 then some .lt else none

/-- Nibble direction codes (R218). -/
def Dir.code : Dir → BitVec 2
  | .ll => 0#2
  | .hl => 1#2
  | .lh => 2#2
  | .hh => 3#2

/-- The direction of a code (R218). -/
def dirOf (v : BitVec 2) : Dir :=
  if v = 0#2 then .ll else if v = 1#2 then .hl else if v = 2#2 then .lh else .hh

/-- A value the code must have, or the given rejection. -/
def pneed {α : Type} (e : DecodeError) (x : Option α) : Parser α :=
  match x with
  | some v => pdone v
  | none => pfail e

/-! Operand fields with the bytes that follow them. -/

/-- The eight modes 1000 to 1111 of R150; the argument is the code's low three bits. -/
def takeEaRel (v : BitVec 3) : Parser Ea :=
  if v = 0#3 then pthen take8 fun d => pdone (.rel8 .a0 d)
  else if v = 1#3 then pthen take8 fun d => pdone (.rel8 .a1 d)
  else if v = 2#3 then pthen take8 fun d => pdone (.sb8 d)
  else if v = 3#3 then pthen take8 fun d => pdone (.fb8 d)
  else if v = 4#3 then pthen take16 fun d => pdone (.rel16 .a0 d)
  else if v = 5#3 then pthen take16 fun d => pdone (.rel16 .a1 d)
  else if v = 6#3 then pthen take16 fun d => pdone (.sb16 d)
  else pthen take16 fun d => pdone (.abs16 d)

/-- The 4-bit operand field (R150). -/
def takeOperand (v : BitVec 4) : Parser Operand :=
  if v.extractLsb' 3 1 = 1#1 then pthen (takeEaRel (v.extractLsb' 0 3)) fun e => pdone (.mem e)
  else if v.extractLsb' 2 1 = 0#1 then pdone (.data (dregOf (v.extractLsb' 0 2)))
  else if v.extractLsb' 1 1 = 0#1 then pdone (.addr (aregOf (v.extractLsb' 0 1)))
  else pdone (.mem (.ind (aregOf (v.extractLsb' 0 1))))

/-- Low three bits of the code of a mode 1000 to 1111 (R150); `[An]` has none of these codes. -/
def Ea.relCode : Ea → BitVec 3
  | .ind a => 0#2 ++ a.bit
  | .rel8 a _ => 0#2 ++ a.bit
  | .sb8 _ => 2#3
  | .fb8 _ => 3#3
  | .rel16 a _ => 2#2 ++ a.bit
  | .sb16 _ => 6#3
  | .abs16 _ => 7#3

/-- Code of a memory mode (R150). -/
def Ea.code : Ea → BitVec 4
  | .ind a => 3#3 ++ a.bit
  | .rel8 a d => 1#1 ++ (Ea.rel8 a d).relCode
  | .sb8 d => 1#1 ++ (Ea.sb8 d).relCode
  | .fb8 d => 1#1 ++ (Ea.fb8 d).relCode
  | .rel16 a d => 1#1 ++ (Ea.rel16 a d).relCode
  | .sb16 d => 1#1 ++ (Ea.sb16 d).relCode
  | .abs16 d => 1#1 ++ (Ea.abs16 d).relCode

/-- Bytes a memory mode adds (R150). -/
def Ea.bytes : Ea → List Byte
  | .ind _ => []
  | .rel8 _ d => [d]
  | .sb8 d => [d]
  | .fb8 d => [d]
  | .rel16 _ d => le16 d
  | .sb16 d => le16 d
  | .abs16 d => le16 d

/-- Code of a general operand (R150). -/
def Operand.code : Operand → BitVec 4
  | .data r => 0#2 ++ r.code
  | .addr a => 2#3 ++ a.bit
  | .mem e => e.code

/-- Bytes a general operand adds (R150). -/
def Operand.bytes : Operand → List Byte
  | .data _ => []
  | .addr _ => []
  | .mem e => e.bytes

/-- The short memory modes 01, 10, 11 (R153), 101, 110, 111 (R152); the argument is the code's low two bits. -/
def takeShortMem (v : BitVec 2) : Parser ShortMem :=
  if v = 1#2 then pthen take8 fun d => pdone (.sb8 d)
  else if v = 2#2 then pthen take8 fun d => pdone (.fb8 d)
  else if v = 3#2 then pthen take16 fun d => pdone (.abs16 d)
  else pfail .reserved

/-- Code of a short memory mode. -/
def ShortMem.code : ShortMem → BitVec 2
  | .sb8 _ => 1#2
  | .fb8 _ => 2#2
  | .abs16 _ => 3#2

/-- Bytes a short memory mode adds. -/
def ShortMem.bytes : ShortMem → List Byte
  | .sb8 d => [d]
  | .fb8 d => [d]
  | .abs16 d => le16 d

/-- The 2-bit short source (R153). -/
def takeShortSrc (v : BitVec 2) : Parser ShortSrc :=
  if v = 0#2 then pdone .other else pthen (takeShortMem v) fun m => pdone (.mem m)

/-- Code of a short source. -/
def ShortSrc.code : ShortSrc → BitVec 2
  | .other => 0#2
  | .mem m => m.code

/-- Bytes a short source adds. -/
def ShortSrc.bytes : ShortSrc → List Byte
  | .other => []
  | .mem m => m.bytes

/-- The 3-bit short destination (R152): 011 R0H, 100 R0L, then the memory modes. -/
def takeShortDest (v : BitVec 3) : Parser ShortDest :=
  if v = 3#3 then pdone (.half .r0h)
  else if v = 4#3 then pdone (.half .r0l)
  else if v.extractLsb' 2 1 = 1#1 then pthen (takeShortMem (v.extractLsb' 0 2)) fun m => pdone (.mem m)
  else pfail .reserved

/-- Code of a short destination (R152). -/
def ShortDest.code : ShortDest → BitVec 3
  | .half .r0h => 3#3
  | .half .r0l => 4#3
  | .mem m => 1#1 ++ m.code

/-- Bytes a short destination adds. -/
def ShortDest.bytes : ShortDest → List Byte
  | .half _ => []
  | .mem m => m.bytes

/-- A generic immediate of the given size (R155). -/
def takeImm : Size → Parser Imm
  | .b => pthen take8 fun v => pdone (.b v)
  | .w => pthen take16 fun v => pdone (.w v)

/-- Bytes of a generic immediate. -/
def Imm.bytes : Imm → List Byte
  | .b v => [v]
  | .w v => le16 v

/-- The 4-bit bit-operand field with its bytes (R156); a register bit number above 15 is reserved (R171). -/
def takeBitOp (v : BitVec 4) : Parser BitOp :=
  if v = 6#4 then pdone (.ind .a0)
  else if v = 7#4 then pdone (.ind .a1)
  else if v = 8#4 then pthen take8 fun k => pdone (.rel8 .a0 k)
  else if v = 9#4 then pthen take8 fun k => pdone (.rel8 .a1 k)
  else if v = 10#4 then pthen take8 fun k => pdone (.sb8 k)
  else if v = 11#4 then pthen take8 fun k => pdone (.fb8 k)
  else if v = 12#4 then pthen take16 fun k => pdone (.rel16 .a0 k)
  else if v = 13#4 then pthen take16 fun k => pdone (.rel16 .a1 k)
  else if v = 14#4 then pthen take16 fun k => pdone (.sb16 k)
  else if v = 15#4 then pthen take16 fun k => pdone (.abs16 k)
  else pthen (pneed .reserved (reg16Of (v.extractLsb' 0 3))) fun r => pthen take8 fun n =>
    if n.extractLsb' 4 4 = 0#4 then pdone (.reg r (n.extractLsb' 0 4)) else pfail .reserved

/-- Code of a bit operand (R156). -/
def BitOp.code : BitOp → BitVec 4
  | .reg r _ => 0#1 ++ r.code
  | .ind a => 3#3 ++ a.bit
  | .rel8 a _ => 4#3 ++ a.bit
  | .sb8 _ => 10#4
  | .fb8 _ => 11#4
  | .rel16 a _ => 6#3 ++ a.bit
  | .sb16 _ => 14#4
  | .abs16 _ => 15#4

/-- Bytes a bit operand adds (R156). -/
def BitOp.bytes : BitOp → List Byte
  | .reg _ n => [0#4 ++ n]
  | .ind _ => []
  | .rel8 _ k => [k]
  | .sb8 k => [k]
  | .fb8 k => [k]
  | .rel16 _ k => le16 k
  | .sb16 k => le16 k
  | .abs16 k => le16 k

/-- The memory codes 0110 to 1111 of the indirect jumps, where 1100 and 1101 are `dsp:20[An]` (R448). -/
def takeJmpEa (v : BitVec 4) : Parser JmpEa :=
  if v = 6#4 then pdone (.ind .a0)
  else if v = 7#4 then pdone (.ind .a1)
  else if v = 8#4 then pthen take8 fun d => pdone (.rel8 .a0 d)
  else if v = 9#4 then pthen take8 fun d => pdone (.rel8 .a1 d)
  else if v = 10#4 then pthen take8 fun d => pdone (.sb8 d)
  else if v = 11#4 then pthen take8 fun d => pdone (.fb8 d)
  else if v = 12#4 then pthen take20 fun d => pdone (.rel20 .a0 d)
  else if v = 13#4 then pthen take20 fun d => pdone (.rel20 .a1 d)
  else if v = 14#4 then pthen take16 fun d => pdone (.sb16 d)
  else if v = 15#4 then pthen take16 fun d => pdone (.abs16 d)
  else pfail .reserved

/-- Code of an indirect jump's memory mode (R448). -/
def JmpEa.code : JmpEa → BitVec 4
  | .ind a => 3#3 ++ a.bit
  | .rel8 a _ => 4#3 ++ a.bit
  | .sb8 _ => 10#4
  | .fb8 _ => 11#4
  | .rel20 a _ => 6#3 ++ a.bit
  | .sb16 _ => 14#4
  | .abs16 _ => 15#4

/-- Bytes an indirect jump's memory mode adds (R448). -/
def JmpEa.bytes : JmpEa → List Byte
  | .ind _ => []
  | .rel8 _ d => [d]
  | .sb8 d => [d]
  | .fb8 d => [d]
  | .rel20 _ d => le20 d
  | .sb16 d => le16 d
  | .abs16 d => le16 d

/-- Source field of `JMPI.W` and `JSRI.W` (R448). -/
def takeJmpW (v : BitVec 4) : Parser JmpW :=
  if v.toNat < 6 then pthen (pneed .reserved (reg16Of (v.extractLsb' 0 3))) fun r => pdone (.reg r)
  else pthen (takeJmpEa v) fun e => pdone (.mem e)

/-- Code of a `JMPI.W` source. -/
def JmpW.code : JmpW → BitVec 4
  | .reg r => 0#1 ++ r.code
  | .mem e => e.code

/-- Bytes of a `JMPI.W` source. -/
def JmpW.bytes : JmpW → List Byte
  | .reg _ => []
  | .mem e => e.bytes

/-- The pair codes 0000, 0001 and 0100 (R449, R527). -/
def pairOf (v : BitVec 4) : Option Pair :=
  if v = 0#4 then some .r2r0 else if v = 1#4 then some .r3r1 else if v = 4#4 then some .a1a0 else none

/-- Code of a pair (R449, R527). -/
def Pair.code : Pair → BitVec 4
  | .r2r0 => 0#4
  | .r3r1 => 1#4
  | .a1a0 => 4#4

/-- Source field of `JMPI.A` and `JSRI.A` (R449). -/
def takeJmpA (v : BitVec 4) : Parser JmpA :=
  if v.toNat < 6 then pthen (pneed .reserved (pairOf v)) fun p => pdone (.pair p)
  else pthen (takeJmpEa v) fun e => pdone (.mem e)

/-- Code of a `JMPI.A` source. -/
def JmpA.code : JmpA → BitVec 4
  | .pair p => p.code
  | .mem e => e.code

/-- Bytes of a `JMPI.A` source. -/
def JmpA.bytes : JmpA → List Byte
  | .pair _ => []
  | .mem e => e.bytes

/-- Destination field of `STC PC` (R527). -/
def takePcDest (v : BitVec 4) : Parser PcDest :=
  if v.toNat < 6 then pthen (pneed .reserved (pairOf v)) fun p => pdone (.pair p)
  else if v.extractLsb' 3 1 = 1#1 then pthen (takeEaRel (v.extractLsb' 0 3)) fun e => pdone (.mem e)
  else pdone (.mem (.ind (aregOf (v.extractLsb' 0 1))))

/-- Code of a `STC PC` destination. -/
def PcDest.code : PcDest → BitVec 4
  | .pair p => p.code
  | .mem e => e.code

/-- Bytes of a `STC PC` destination. -/
def PcDest.bytes : PcDest → List Byte
  | .pair _ => []
  | .mem e => e.bytes

/-! The shapes several rows share. -/

/-- Generic `src,dest`: second byte `SRC DEST`, then the source's bytes, then the destination's (R141, R146). -/
def takeSrcDest (sz : Size) (k : Size → Operand → Operand → Instr) : Parser Instr :=
  pthen take8 fun m => pthen (takeOperand (m.extractLsb' 4 4)) fun s =>
    pthen (takeOperand (m.extractLsb' 0 4)) fun d => pdone (k sz s d)

/-- Quick `#IMM4,dest` (R142). -/
def takeQuick (sz : Size) (k : Size → BitVec 4 → Operand → Instr) : Parser Instr :=
  pthen take8 fun m => pthen (takeOperand (m.extractLsb' 0 4)) fun d => pdone (k sz (m.extractLsb' 4 4) d)

/-- Short `#IMM8,dest`: the immediate first (R146 item 3). -/
def takeShortImm (v : BitVec 3) (k : BitVec 8 → ShortDest → Instr) : Parser Instr :=
  pthen take8 fun x => pthen (takeShortDest v) fun d => pdone (k x d)

/-- Short one-operand form. -/
def takeShort1 (v : BitVec 3) (k : ShortDest → Instr) : Parser Instr :=
  pthen (takeShortDest v) fun d => pdone (k d)

/-- Short `src,R0L/R0H` form: `D SS` in the low three bits (R153). -/
def takeShort2 (v : BitVec 3) (k : Half → ShortSrc → Instr) : Parser Instr :=
  pthen (takeShortSrc (v.extractLsb' 0 2)) fun s => pdone (k (halfOf (v.extractLsb' 2 1)) s)

/-- Generic one-operand form after the second byte. -/
def takeOp1 (m : BitVec 4) (k : Operand → Instr) : Parser Instr :=
  pthen (takeOperand m) fun d => pdone (k d)

/-- Generic `#IMM,dest` after the second byte: the destination's bytes first (R146 item 2). -/
def takeImmDest (sz : Size) (m : BitVec 4) (k : Imm → Operand → Instr) : Parser Instr :=
  pthen (takeOperand m) fun d => pthen (takeImm sz) fun v => pdone (k v d)

/-- An instruction with an immediate alone. -/
def takeImm1 (sz : Size) (k : Imm → Instr) : Parser Instr :=
  pthen (takeImm sz) fun v => pdone (k v)

/-- A bit instruction of the 7Eh group after the second byte. -/
def takeBit1 (m : BitVec 4) (k : BitOp → Instr) : Parser Instr :=
  pthen (takeBitOp m) fun d => pdone (k d)

/-- Group 74h/75h (R161). -/
def take74 (sz : Size) (op m : BitVec 4) : Parser Instr :=
  if op = 0#4 then pthen (takeOperand m) fun s => pthen take20 fun a => pdone (.steAbs20 sz s a)
  else if op = 1#4 then pthen (takeOperand m) fun s => pthen take20 fun a => pdone (.steDsp20 sz s a)
  else if op = 2#4 then takeOp1 m (.steA1A0 sz)
  else if op = 3#4 then pthen (takeOperand m) fun s => pthen take8 fun d => pdone (.movGToSp sz s d)
  else if op = 4#4 then takeOp1 m (.pushG sz)
  else if op = 5#4 then takeOp1 m (.neg sz)
  else if op = 6#4 then takeOp1 m (.rotR1H sz)
  else if op = 7#4 then takeOp1 m (.notG sz)
  else if op = 8#4 then pthen (takeOperand m) fun d => pthen take20 fun a => pdone (.ldeAbs20 sz a d)
  else if op = 9#4 then pthen (takeOperand m) fun d => pthen take20 fun a => pdone (.ldeDsp20 sz a d)
  else if op = 10#4 then takeOp1 m (.ldeA1A0 sz)
  else if op = 11#4 then pthen (takeOperand m) fun d => pthen take8 fun x => pdone (.movGFromSp sz x d)
  else if op = 12#4 then takeImmDest sz m .movGImm
  else if op = 13#4 then takeOp1 m (.popG sz)
  else if op = 14#4 then takeOp1 m (.shlR1H sz)
  else takeOp1 m (.shaR1H sz)

/-- Group 76h/77h (R162). -/
def take76 (sz : Size) (op m : BitVec 4) : Parser Instr :=
  if op = 0#4 then takeImmDest sz m .tstImm
  else if op = 1#4 then takeImmDest sz m .xorImm
  else if op = 2#4 then takeImmDest sz m .andGImm
  else if op = 3#4 then takeImmDest sz m .orGImm
  else if op = 4#4 then takeImmDest sz m .addGImm
  else if op = 5#4 then takeImmDest sz m .subGImm
  else if op = 6#4 then takeImmDest sz m .adcImm
  else if op = 7#4 then takeImmDest sz m .sbbImm
  else if op = 8#4 then takeImmDest sz m .cmpGImm
  else if op = 9#4 then takeOp1 m (.divxSrc sz)
  else if op = 10#4 then takeOp1 m (.rolc sz)
  else if op = 11#4 then takeOp1 m (.rorc sz)
  else if op = 12#4 then takeOp1 m (.divuSrc sz)
  else if op = 13#4 then takeOp1 m (.divSrc sz)
  else if op = 14#4 then takeOp1 m (.adcf sz)
  else takeOp1 m (.abs sz)

/-- The rows E0h to EFh that 7Ch and 7Dh read alike but for the size (R163). -/
def takeE (sz : Size) (m : BitVec 4) (dadd dsub dadc dsbb : Instr) (idadd idsub idadc idsbb : Parser Instr) :
    Parser Instr :=
  if m = 0#4 then takeImm1 sz .divuImm
  else if m = 1#4 then takeImm1 sz .divImm
  else if m = 2#4 then takeImm1 sz .pushGImm
  else if m = 3#4 then takeImm1 sz .divxImm
  else if m = 4#4 then pdone dadd
  else if m = 5#4 then pdone dsub
  else if m = 6#4 then pdone dadc
  else if m = 7#4 then pdone dsbb
  else if m = 8#4 then pdone (.smovf sz)
  else if m = 9#4 then pdone (.smovb sz)
  else if m = 10#4 then pdone (.sstr sz)
  else if m = 11#4 then takeImm1 sz .addGSp
  else if m = 12#4 then idadd
  else if m = 13#4 then idsub
  else if m = 14#4 then idadc
  else idsbb

/-- `LDCTX` and `STCTX` operands: abs16, then abs20 (R146 item 6). -/
def takeCtx (k : BitVec 16 → BitVec 20 → Instr) : Parser Instr :=
  pthen take16 fun n => pthen take20 fun t => pdone (k n t)

/-- Group 7Ch (R163, middle column). -/
def take7C (op m : BitVec 4) : Parser Instr :=
  if op.extractLsb' 2 2 = 0#2 then takeOp1 m (.movDirToR0L (dirOf (op.extractLsb' 0 2)))
  else if op = 4#4 then takeImmDest .b m .muluImm
  else if op = 5#4 then takeImmDest .b m .mulImm
  else if op = 6#4 then takeOp1 m .extsB
  else if op.extractLsb' 2 2 = 2#2 then takeOp1 m (.movDirFromR0L (dirOf (op.extractLsb' 0 2)))
  else if op = 12#4 then pthen (takePcDest m) fun d => pdone (.stcPc d)
  else if op = 14#4 then
    takeE .b m .daddBReg .dsubBReg .dadcBReg .dsbbBReg
      (pthen take8 fun v => pdone (.daddBImm v)) (pthen take8 fun v => pdone (.dsubBImm v))
      (pthen take8 fun v => pdone (.dadcBImm v)) (pthen take8 fun v => pdone (.dsbbBImm v))
  else if op = 15#4 then
    if m = 0#4 then takeCtx .ldctx
    else if m = 1#4 then pdone (.rmpa .b)
    else if m = 2#4 then pthen take8 fun v => pdone (.enter v)
    else if m = 3#4 then pdone .extsW
    else pfail .unassigned
  else pfail .unassigned

/-- Group 7Dh (R163, last column). -/
def take7D (op m : BitVec 4) : Parser Instr :=
  if op = 0#4 then pthen (takeJmpA m) fun s => pdone (.jmpiA s)
  else if op = 1#4 then pthen (takeJmpA m) fun s => pdone (.jsriA s)
  else if op = 2#4 then pthen (takeJmpW m) fun s => pdone (.jmpiW s)
  else if op = 3#4 then pthen (takeJmpW m) fun s => pdone (.jsriW s)
  else if op = 4#4 then takeImmDest .w m .muluImm
  else if op = 5#4 then takeImmDest .w m .mulImm
  else if op = 9#4 then
    if m.extractLsb' 3 1 = 1#1 then pthen (takeEaRel (m.extractLsb' 0 3)) fun e => pdone (.pusha e)
    else pfail .reserved
  else if op = 10#4 then
    if m.extractLsb' 3 1 = 0#1 then pdone (.ldipl (m.extractLsb' 0 3)) else pfail .unassigned
  else if op = 11#4 then pdone (.addQSp m)
  else if op = 12#4 then
    pthen (pneed .unassigned (condOf m)) fun c =>
      if c.inByteForm then pfail .unassigned else pthen take8 fun d => pdone (.jcnd16 c d)
  else if op = 13#4 then pthen (pneed .unassigned (condOf m)) fun c => pdone (.bmcndC c)
  else if op = 14#4 then
    takeE .w m .daddWReg .dsubWReg .dadcWReg .dsbbWReg
      (pthen take16 fun v => pdone (.daddWImm v)) (pthen take16 fun v => pdone (.dsubWImm v))
      (pthen take16 fun v => pdone (.dadcWImm v)) (pthen take16 fun v => pdone (.dsbbWImm v))
  else if op = 15#4 then
    if m = 0#4 then takeCtx .stctx
    else if m = 1#4 then pdone (.rmpa .w)
    else if m = 2#4 then pdone .exitd
    else if m = 3#4 then pdone .wait
    else pfail .unassigned
  else pfail .unassigned

/-- Bit group 7Eh (R164). -/
def take7E (op m : BitVec 4) : Parser Instr :=
  if op = 0#4 then takeBit1 m .btstc
  else if op = 1#4 then takeBit1 m .btsts
  else if op = 2#4 then pthen (takeBitOp m) fun d => pthen take8 fun x =>
    pthen (pneed .reserved (condByteOf x)) fun c => pdone (.bmcnd d c)
  else if op = 3#4 then takeBit1 m .bntst
  else if op = 4#4 then takeBit1 m .band
  else if op = 5#4 then takeBit1 m .bnand
  else if op = 6#4 then takeBit1 m .bor
  else if op = 7#4 then takeBit1 m .bnor
  else if op = 8#4 then takeBit1 m .bclrG
  else if op = 9#4 then takeBit1 m .bsetG
  else if op = 10#4 then takeBit1 m .bnotG
  else if op = 11#4 then takeBit1 m .btstG
  else if op = 12#4 then takeBit1 m .bxor
  else if op = 13#4 then takeBit1 m .bnxor
  else pfail .unassigned

/-- Group 7Ah (size `.B`, `LDC`) and 7Bh (size `.W`, `STC`) (R166). -/
def take7A (sz : Size) (op m : BitVec 4) : Parser Instr :=
  if op.extractLsb' 2 2 = 0#2 then takeOp1 m (.xchg sz (dregOf (op.extractLsb' 0 2)))
  else if op.extractLsb' 3 1 = 1#1 then
    pthen (pneed .unassigned (cregOf (op.extractLsb' 0 3))) fun c => pthen (takeOperand m) fun o =>
      match sz with
      | .b => pdone (.ldcSrc o c)
      | .w => pdone (.stcDest c o)
  else pfail .unassigned

/-- Group EBh (R165). -/
def takeEB (op m : BitVec 4) : Parser Instr :=
  if op.extractLsb' 2 2 = 3#2 then pdone (.int (op.extractLsb' 0 2 ++ m))
  else if op.extractLsb' 1 3 = 4#3 then pdone (.shlLImm m (dpairOf (op.extractLsb' 0 1)))
  else if op.extractLsb' 1 3 = 5#3 then pdone (.shaLImm m (dpairOf (op.extractLsb' 0 1)))
  else if m.extractLsb' 3 1 = 1#1 then
    pthen (pneed .unassigned (reg16Of (op.extractLsb' 0 3))) fun r =>
      pthen (takeEaRel (m.extractLsb' 0 3)) fun e => pdone (.mova e r)
  else if m = 0#4 then
    pthen (pneed .unassigned (cregOf (op.extractLsb' 0 3))) fun c => pthen take16 fun v => pdone (.ldcImm v c)
  else if m = 1#4 then
    if op.extractLsb' 1 2 = 0#2 then pdone (.shlLR1H (dpairOf (op.extractLsb' 0 1)))
    else if op.extractLsb' 1 2 = 1#2 then pdone (.shaLR1H (dpairOf (op.extractLsb' 0 1)))
    else pfail .unassigned
  else if m = 2#4 then pthen (pneed .unassigned (cregOf (op.extractLsb' 0 3))) fun c => pdone (.pushc c)
  else if m = 3#4 then pthen (pneed .unassigned (cregOf (op.extractLsb' 0 3))) fun c => pdone (.popc c)
  else if m = 4#4 then pdone (.fset (flagOf (op.extractLsb' 0 3)))
  else if m = 5#4 then pdone (.fclr (flagOf (op.extractLsb' 0 3)))
  else pfail .unassigned

/-- A second opcode byte, as its two nibbles. -/
def takeSecond (f : BitVec 4 → BitVec 4 → Parser Instr) : Parser Instr :=
  pthen take8 fun m => f (m.extractLsb' 4 4) (m.extractLsb' 0 4)

/-- One block of eight first bytes from 80h up: two generic rows, one single byte, five short rows (R160). -/
def takeBlock (low : BitVec 3) (generic : Size → Parser Instr) (single short : Parser Instr) : Parser Instr :=
  if low = 0#3 then generic .b
  else if low = 1#3 then generic .w
  else if low = 2#3 then single
  else short

/-- First bytes 00h to 3Fh (R160). -/
def takeRow0 (top : BitVec 5) (low : BitVec 3) : Parser Instr :=
  if top = 0#5 then
    if low = 0#3 then pdone .brk
    else if low = 4#3 then pdone .nop
    else pthen (takeShortMem (low.extractLsb' 0 2)) fun m => pdone (.movBSHalfDest (halfOf (low.extractLsb' 2 1)) m)
  else if top = 1#5 then takeShort2 low .movBSSrcHalf
  else if top = 2#5 then takeShort2 low .andBSSrc
  else if top = 3#5 then takeShort2 low .orBSSrc
  else if top = 4#5 then takeShort2 low .addBSSrc
  else if top = 5#5 then takeShort2 low .subBSSrc
  else if top = 6#5 then
    pthen (takeShortSrc (low.extractLsb' 0 2)) fun s => pdone (.movBSSrcAn (aregOf (low.extractLsb' 2 1)) s)
  else takeShort2 low .cmpBSSrc

/-- First bytes 40h to 7Fh (R160). -/
def takeRow1 (top : BitVec 5) (low : BitVec 3) : Parser Instr :=
  if top = 8#5 then pthen take8 fun d => pdone (.bclrS low d)
  else if top = 9#5 then pthen take8 fun d => pdone (.bsetS low d)
  else if top = 10#5 then pthen take8 fun d => pdone (.bnotS low d)
  else if top = 11#5 then pthen take8 fun d => pdone (.btstS low d)
  else if top = 12#5 then pdone (.jmpS low)
  else if top = 13#5 then
    pthen (pneed .unassigned (condOf (0#1 ++ low))) fun c => pthen take8 fun d => pdone (.jcnd8 c d)
  else if top = 14#5 then
    if low.extractLsb' 1 2 = 0#2 then takeSrcDest (sizeOf (low.extractLsb' 0 1)) .muluSrc
    else if low.extractLsb' 1 2 = 1#2 then takeSrcDest (sizeOf (low.extractLsb' 0 1)) .movGSrc
    else if low.extractLsb' 1 2 = 2#2 then takeSecond (take74 (sizeOf (low.extractLsb' 0 1)))
    else takeSecond (take76 (sizeOf (low.extractLsb' 0 1)))
  else if low.extractLsb' 1 2 = 0#2 then takeSrcDest (sizeOf (low.extractLsb' 0 1)) .mulSrc
  else if low.extractLsb' 1 2 = 1#2 then takeSecond (take7A (sizeOf (low.extractLsb' 0 1)))
  else if low = 4#3 then takeSecond take7C
  else if low = 5#3 then takeSecond take7D
  else if low = 6#3 then takeSecond take7E
  else pfail .unassigned

/-- First bytes 80h to BFh (R160). -/
def takeRow2 (top : BitVec 5) (low : BitVec 3) : Parser Instr :=
  if top = 16#5 then
    takeBlock low (fun z => takeSrcDest z .tstSrc) (pdone (.pushBS .r0l)) (takeShortImm low .addBSImm)
  else if top = 17#5 then
    takeBlock low (fun z => takeSrcDest z .xorSrc) (pdone (.pushBS .r0h)) (takeShortImm low .subBSImm)
  else if top = 18#5 then
    takeBlock low (fun z => takeSrcDest z .andGSrc) (pdone (.popBS .r0l)) (takeShortImm low .andBSImm)
  else if top = 19#5 then
    takeBlock low (fun z => takeSrcDest z .orGSrc) (pdone (.popBS .r0h)) (takeShortImm low .orBSImm)
  else if top = 20#5 then
    takeBlock low (fun z => takeSrcDest z .addGSrc) (pthen take16 fun v => pdone (.movWSImmAn v .a0))
      (takeShort1 low .incB)
  else if top = 21#5 then
    takeBlock low (fun z => takeSrcDest z .subGSrc) (pthen take16 fun v => pdone (.movWSImmAn v .a1))
      (takeShort1 low .decB)
  else if top = 22#5 then
    takeBlock low (fun z => takeSrcDest z .adcSrc) (pdone (.incW .a0)) (takeShort1 low .movBZ)
  else
    takeBlock low (fun z => takeSrcDest z .sbbSrc) (pdone (.incW .a1)) (takeShort1 low .notBS)

/-- First bytes C0h to FFh (R160). -/
def takeRow3 (top : BitVec 5) (low : BitVec 3) : Parser Instr :=
  if top = 24#5 then
    takeBlock low (fun z => takeSrcDest z .cmpGSrc) (pdone (.pushWS .a0)) (takeShortImm low .movBSImm)
  else if top = 25#5 then
    takeBlock low (fun z => takeQuick z .addQ) (pdone (.pushWS .a1)) (takeShortImm low .stz)
  else if top = 26#5 then
    takeBlock low (fun z => takeQuick z .cmpQ) (pdone (.popWS .a0)) (takeShortImm low .stnz)
  else if top = 27#5 then
    takeBlock low (fun z => takeQuick z .movQ) (pdone (.popWS .a1))
      (pthen take8 fun x => pthen (takeShortDest low) fun d => pthen take8 fun y => pdone (.stzx x y d))
  else if top = 28#5 then
    takeBlock low (fun z => takeQuick z .rotImm) (pthen take8 fun v => pdone (.movBSImmAn v .a0))
      (takeShortImm low .cmpBSImm)
  else if top = 29#5 then
    takeBlock low (fun z => takeQuick z .shlImm) (pthen take8 fun v => pdone (.movBSImmAn v .a1))
      (if low = 3#3 then takeSecond takeEB
       else if low = 4#3 then pthen take8 fun l => pdone (.pushm l)
       else if low = 5#3 then pthen take8 fun l => pdone (.popm l)
       else if low = 6#3 then pthen take8 fun n => pdone (.jmps n)
       else pthen take8 fun n => pdone (.jsrs n))
  else if top = 30#5 then
    takeBlock low (fun z => takeQuick z .shaImm) (pdone (.decW .a0))
      (if low = 3#3 then pdone .rts
       else if low = 4#3 then pthen take16 fun d => pdone (.jmpW d)
       else if low = 5#3 then pthen take16 fun d => pdone (.jsrW d)
       else if low = 6#3 then pdone .into
       else pfail .unassigned)
  else
    takeBlock low
      (fun z => pthen take8 fun m => pthen (takeOperand (m.extractLsb' 0 4)) fun d =>
        pthen take8 fun x => pdone (.adjnz z (m.extractLsb' 4 4) d x))
      (pdone (.decW .a1))
      (if low = 3#3 then pdone .reit
       else if low = 4#3 then pthen take20 fun a => pdone (.jmpA a)
       else if low = 5#3 then pthen take20 fun a => pdone (.jsrA a)
       else if low = 6#3 then pthen take8 fun d => pdone (.jmpB d)
       else pdone .und)

/-- The opcode map (R160), without the operand restrictions. -/
def decodeRaw : Parser Instr :=
  pthen take8 fun b =>
    if b.extractLsb' 6 2 = 0#2 then takeRow0 (b.extractLsb' 3 5) (b.extractLsb' 0 3)
    else if b.extractLsb' 6 2 = 1#2 then takeRow1 (b.extractLsb' 3 5) (b.extractLsb' 0 3)
    else if b.extractLsb' 6 2 = 2#2 then takeRow2 (b.extractLsb' 3 5) (b.extractLsb' 0 3)
    else takeRow3 (b.extractLsb' 3 5) (b.extractLsb' 0 3)

/-- The instruction at the head of a byte sequence and the bytes after it, or why there is none (R160, R171). -/
def decode : Parser Instr :=
  pthen decodeRaw fun i => if i.wellFormed then pdone i else pfail .reserved

/-! The encoder. -/

/-- The bytes of an instruction, in the order of R146. -/
def encode : Instr → List Byte
  | .brk => [byte53 0#5 0#3]
  | .movBSHalfDest h m => byte53 0#5 (h.bit ++ m.code) :: m.bytes
  | .nop => [byte53 0#5 4#3]
  | .movBSSrcHalf h src => byte53 1#5 (h.bit ++ src.code) :: src.bytes
  | .andBSSrc h src => byte53 2#5 (h.bit ++ src.code) :: src.bytes
  | .orBSSrc h src => byte53 3#5 (h.bit ++ src.code) :: src.bytes
  | .addBSSrc h src => byte53 4#5 (h.bit ++ src.code) :: src.bytes
  | .subBSSrc h src => byte53 5#5 (h.bit ++ src.code) :: src.bytes
  | .movBSSrcAn a src => byte53 6#5 (a.bit ++ src.code) :: src.bytes
  | .cmpBSSrc h src => byte53 7#5 (h.bit ++ src.code) :: src.bytes
  | .bclrS n d => [byte53 8#5 n, d]
  | .bsetS n d => [byte53 9#5 n, d]
  | .bnotS n d => [byte53 10#5 n, d]
  | .btstS n d => [byte53 11#5 n, d]
  | .jmpS d => [byte53 12#5 d]
  | .jcnd8 c d => [byte53 13#5 (c.code.extractLsb' 0 3), d]
  | .muluSrc sz src dst => byte53 14#5 (0#2 ++ sz.bit) :: byte44 src.code dst.code :: src.bytes ++ dst.bytes
  | .movGSrc sz src dst => byte53 14#5 (1#2 ++ sz.bit) :: byte44 src.code dst.code :: src.bytes ++ dst.bytes
  | .steAbs20 sz src a => byte53 14#5 (2#2 ++ sz.bit) :: byte44 0#4 src.code :: src.bytes ++ le20 a
  | .steDsp20 sz src d => byte53 14#5 (2#2 ++ sz.bit) :: byte44 1#4 src.code :: src.bytes ++ le20 d
  | .steA1A0 sz src => byte53 14#5 (2#2 ++ sz.bit) :: byte44 2#4 src.code :: src.bytes
  | .movGToSp sz src d => byte53 14#5 (2#2 ++ sz.bit) :: byte44 3#4 src.code :: src.bytes ++ [d]
  | .pushG sz src => byte53 14#5 (2#2 ++ sz.bit) :: byte44 4#4 src.code :: src.bytes
  | .neg sz dst => byte53 14#5 (2#2 ++ sz.bit) :: byte44 5#4 dst.code :: dst.bytes
  | .rotR1H sz dst => byte53 14#5 (2#2 ++ sz.bit) :: byte44 6#4 dst.code :: dst.bytes
  | .notG sz dst => byte53 14#5 (2#2 ++ sz.bit) :: byte44 7#4 dst.code :: dst.bytes
  | .ldeAbs20 sz a dst => byte53 14#5 (2#2 ++ sz.bit) :: byte44 8#4 dst.code :: dst.bytes ++ le20 a
  | .ldeDsp20 sz d dst => byte53 14#5 (2#2 ++ sz.bit) :: byte44 9#4 dst.code :: dst.bytes ++ le20 d
  | .ldeA1A0 sz dst => byte53 14#5 (2#2 ++ sz.bit) :: byte44 10#4 dst.code :: dst.bytes
  | .movGFromSp sz d dst => byte53 14#5 (2#2 ++ sz.bit) :: byte44 11#4 dst.code :: dst.bytes ++ [d]
  | .movGImm v dst => byte53 14#5 (2#2 ++ v.size.bit) :: byte44 12#4 dst.code :: dst.bytes ++ v.bytes
  | .popG sz dst => byte53 14#5 (2#2 ++ sz.bit) :: byte44 13#4 dst.code :: dst.bytes
  | .shlR1H sz dst => byte53 14#5 (2#2 ++ sz.bit) :: byte44 14#4 dst.code :: dst.bytes
  | .shaR1H sz dst => byte53 14#5 (2#2 ++ sz.bit) :: byte44 15#4 dst.code :: dst.bytes
  | .tstImm v dst => byte53 14#5 (3#2 ++ v.size.bit) :: byte44 0#4 dst.code :: dst.bytes ++ v.bytes
  | .xorImm v dst => byte53 14#5 (3#2 ++ v.size.bit) :: byte44 1#4 dst.code :: dst.bytes ++ v.bytes
  | .andGImm v dst => byte53 14#5 (3#2 ++ v.size.bit) :: byte44 2#4 dst.code :: dst.bytes ++ v.bytes
  | .orGImm v dst => byte53 14#5 (3#2 ++ v.size.bit) :: byte44 3#4 dst.code :: dst.bytes ++ v.bytes
  | .addGImm v dst => byte53 14#5 (3#2 ++ v.size.bit) :: byte44 4#4 dst.code :: dst.bytes ++ v.bytes
  | .subGImm v dst => byte53 14#5 (3#2 ++ v.size.bit) :: byte44 5#4 dst.code :: dst.bytes ++ v.bytes
  | .adcImm v dst => byte53 14#5 (3#2 ++ v.size.bit) :: byte44 6#4 dst.code :: dst.bytes ++ v.bytes
  | .sbbImm v dst => byte53 14#5 (3#2 ++ v.size.bit) :: byte44 7#4 dst.code :: dst.bytes ++ v.bytes
  | .cmpGImm v dst => byte53 14#5 (3#2 ++ v.size.bit) :: byte44 8#4 dst.code :: dst.bytes ++ v.bytes
  | .divxSrc sz src => byte53 14#5 (3#2 ++ sz.bit) :: byte44 9#4 src.code :: src.bytes
  | .rolc sz dst => byte53 14#5 (3#2 ++ sz.bit) :: byte44 10#4 dst.code :: dst.bytes
  | .rorc sz dst => byte53 14#5 (3#2 ++ sz.bit) :: byte44 11#4 dst.code :: dst.bytes
  | .divuSrc sz src => byte53 14#5 (3#2 ++ sz.bit) :: byte44 12#4 src.code :: src.bytes
  | .divSrc sz src => byte53 14#5 (3#2 ++ sz.bit) :: byte44 13#4 src.code :: src.bytes
  | .adcf sz dst => byte53 14#5 (3#2 ++ sz.bit) :: byte44 14#4 dst.code :: dst.bytes
  | .abs sz dst => byte53 14#5 (3#2 ++ sz.bit) :: byte44 15#4 dst.code :: dst.bytes
  | .mulSrc sz src dst => byte53 15#5 (0#2 ++ sz.bit) :: byte44 src.code dst.code :: src.bytes ++ dst.bytes
  | .xchg sz src dst => byte53 15#5 (1#2 ++ sz.bit) :: byte44 (0#2 ++ src.code) dst.code :: dst.bytes
  | .ldcSrc src c => byte53 15#5 2#3 :: byte44 (1#1 ++ c.code) src.code :: src.bytes
  | .stcDest c dst => byte53 15#5 3#3 :: byte44 (1#1 ++ c.code) dst.code :: dst.bytes
  | .movDirToR0L k src => byte53 15#5 4#3 :: byte44 (0#2 ++ k.code) src.code :: src.bytes
  | .movDirFromR0L k dst => byte53 15#5 4#3 :: byte44 (2#2 ++ k.code) dst.code :: dst.bytes
  | .jmpiA src => byte53 15#5 5#3 :: byte44 0#4 src.code :: src.bytes
  | .jsriA src => byte53 15#5 5#3 :: byte44 1#4 src.code :: src.bytes
  | .jmpiW src => byte53 15#5 5#3 :: byte44 2#4 src.code :: src.bytes
  | .jsriW src => byte53 15#5 5#3 :: byte44 3#4 src.code :: src.bytes
  | .muluImm v dst => byte53 15#5 (2#2 ++ v.size.bit) :: byte44 4#4 dst.code :: dst.bytes ++ v.bytes
  | .mulImm v dst => byte53 15#5 (2#2 ++ v.size.bit) :: byte44 5#4 dst.code :: dst.bytes ++ v.bytes
  | .extsB dst => byte53 15#5 4#3 :: byte44 6#4 dst.code :: dst.bytes
  | .pusha src => byte53 15#5 5#3 :: byte44 9#4 (1#1 ++ src.relCode) :: src.bytes
  | .ldipl l => [byte53 15#5 5#3, byte44 10#4 (0#1 ++ l)]
  | .addQSp v => [byte53 15#5 5#3, byte44 11#4 v]
  | .stcPc dst => byte53 15#5 4#3 :: byte44 12#4 dst.code :: dst.bytes
  | .jcnd16 c d => [byte53 15#5 5#3, byte44 12#4 c.code, d]
  | .bmcndC c => [byte53 15#5 5#3, byte44 13#4 c.code]
  | .divuImm v => byte53 15#5 (2#2 ++ v.size.bit) :: byte44 14#4 0#4 :: v.bytes
  | .divImm v => byte53 15#5 (2#2 ++ v.size.bit) :: byte44 14#4 1#4 :: v.bytes
  | .pushGImm v => byte53 15#5 (2#2 ++ v.size.bit) :: byte44 14#4 2#4 :: v.bytes
  | .divxImm v => byte53 15#5 (2#2 ++ v.size.bit) :: byte44 14#4 3#4 :: v.bytes
  | .daddBReg => [byte53 15#5 4#3, byte44 14#4 4#4]
  | .daddWReg => [byte53 15#5 5#3, byte44 14#4 4#4]
  | .dsubBReg => [byte53 15#5 4#3, byte44 14#4 5#4]
  | .dsubWReg => [byte53 15#5 5#3, byte44 14#4 5#4]
  | .dadcBReg => [byte53 15#5 4#3, byte44 14#4 6#4]
  | .dadcWReg => [byte53 15#5 5#3, byte44 14#4 6#4]
  | .dsbbBReg => [byte53 15#5 4#3, byte44 14#4 7#4]
  | .dsbbWReg => [byte53 15#5 5#3, byte44 14#4 7#4]
  | .smovf sz => [byte53 15#5 (2#2 ++ sz.bit), byte44 14#4 8#4]
  | .smovb sz => [byte53 15#5 (2#2 ++ sz.bit), byte44 14#4 9#4]
  | .sstr sz => [byte53 15#5 (2#2 ++ sz.bit), byte44 14#4 10#4]
  | .addGSp v => byte53 15#5 (2#2 ++ v.size.bit) :: byte44 14#4 11#4 :: v.bytes
  | .daddBImm v => [byte53 15#5 4#3, byte44 14#4 12#4, v]
  | .daddWImm v => byte53 15#5 5#3 :: byte44 14#4 12#4 :: le16 v
  | .dsubBImm v => [byte53 15#5 4#3, byte44 14#4 13#4, v]
  | .dsubWImm v => byte53 15#5 5#3 :: byte44 14#4 13#4 :: le16 v
  | .dadcBImm v => [byte53 15#5 4#3, byte44 14#4 14#4, v]
  | .dadcWImm v => byte53 15#5 5#3 :: byte44 14#4 14#4 :: le16 v
  | .dsbbBImm v => [byte53 15#5 4#3, byte44 14#4 15#4, v]
  | .dsbbWImm v => byte53 15#5 5#3 :: byte44 14#4 15#4 :: le16 v
  | .ldctx num table => byte53 15#5 4#3 :: byte44 15#4 0#4 :: le16 num ++ le20 table
  | .stctx num table => byte53 15#5 5#3 :: byte44 15#4 0#4 :: le16 num ++ le20 table
  | .rmpa sz => [byte53 15#5 (2#2 ++ sz.bit), byte44 15#4 1#4]
  | .enter v => [byte53 15#5 4#3, byte44 15#4 2#4, v]
  | .exitd => [byte53 15#5 5#3, byte44 15#4 2#4]
  | .extsW => [byte53 15#5 4#3, byte44 15#4 3#4]
  | .wait => [byte53 15#5 5#3, byte44 15#4 3#4]
  | .btstc dst => byte53 15#5 6#3 :: byte44 0#4 dst.code :: dst.bytes
  | .btsts dst => byte53 15#5 6#3 :: byte44 1#4 dst.code :: dst.bytes
  | .bmcnd dst c => byte53 15#5 6#3 :: byte44 2#4 dst.code :: dst.bytes ++ [c.byte]
  | .bntst src => byte53 15#5 6#3 :: byte44 3#4 src.code :: src.bytes
  | .band src => byte53 15#5 6#3 :: byte44 4#4 src.code :: src.bytes
  | .bnand src => byte53 15#5 6#3 :: byte44 5#4 src.code :: src.bytes
  | .bor src => byte53 15#5 6#3 :: byte44 6#4 src.code :: src.bytes
  | .bnor src => byte53 15#5 6#3 :: byte44 7#4 src.code :: src.bytes
  | .bclrG dst => byte53 15#5 6#3 :: byte44 8#4 dst.code :: dst.bytes
  | .bsetG dst => byte53 15#5 6#3 :: byte44 9#4 dst.code :: dst.bytes
  | .bnotG dst => byte53 15#5 6#3 :: byte44 10#4 dst.code :: dst.bytes
  | .btstG src => byte53 15#5 6#3 :: byte44 11#4 src.code :: src.bytes
  | .bxor src => byte53 15#5 6#3 :: byte44 12#4 src.code :: src.bytes
  | .bnxor src => byte53 15#5 6#3 :: byte44 13#4 src.code :: src.bytes
  | .tstSrc sz src dst => byte53 16#5 (0#2 ++ sz.bit) :: byte44 src.code dst.code :: src.bytes ++ dst.bytes
  | .pushBS h => [byte53 (8#4 ++ h.bit) 2#3]
  | .addBSImm v dst => byte53 16#5 dst.code :: v :: dst.bytes
  | .xorSrc sz src dst => byte53 17#5 (0#2 ++ sz.bit) :: byte44 src.code dst.code :: src.bytes ++ dst.bytes
  | .subBSImm v dst => byte53 17#5 dst.code :: v :: dst.bytes
  | .andGSrc sz src dst => byte53 18#5 (0#2 ++ sz.bit) :: byte44 src.code dst.code :: src.bytes ++ dst.bytes
  | .popBS h => [byte53 (9#4 ++ h.bit) 2#3]
  | .andBSImm v dst => byte53 18#5 dst.code :: v :: dst.bytes
  | .orGSrc sz src dst => byte53 19#5 (0#2 ++ sz.bit) :: byte44 src.code dst.code :: src.bytes ++ dst.bytes
  | .orBSImm v dst => byte53 19#5 dst.code :: v :: dst.bytes
  | .addGSrc sz src dst => byte53 20#5 (0#2 ++ sz.bit) :: byte44 src.code dst.code :: src.bytes ++ dst.bytes
  | .movWSImmAn v a => byte53 (10#4 ++ a.bit) 2#3 :: le16 v
  | .incB dst => byte53 20#5 dst.code :: dst.bytes
  | .subGSrc sz src dst => byte53 21#5 (0#2 ++ sz.bit) :: byte44 src.code dst.code :: src.bytes ++ dst.bytes
  | .decB dst => byte53 21#5 dst.code :: dst.bytes
  | .adcSrc sz src dst => byte53 22#5 (0#2 ++ sz.bit) :: byte44 src.code dst.code :: src.bytes ++ dst.bytes
  | .incW a => [byte53 (11#4 ++ a.bit) 2#3]
  | .movBZ dst => byte53 22#5 dst.code :: dst.bytes
  | .sbbSrc sz src dst => byte53 23#5 (0#2 ++ sz.bit) :: byte44 src.code dst.code :: src.bytes ++ dst.bytes
  | .notBS dst => byte53 23#5 dst.code :: dst.bytes
  | .cmpGSrc sz src dst => byte53 24#5 (0#2 ++ sz.bit) :: byte44 src.code dst.code :: src.bytes ++ dst.bytes
  | .pushWS a => [byte53 (12#4 ++ a.bit) 2#3]
  | .movBSImm v dst => byte53 24#5 dst.code :: v :: dst.bytes
  | .addQ sz v dst => byte53 25#5 (0#2 ++ sz.bit) :: byte44 v dst.code :: dst.bytes
  | .stz v dst => byte53 25#5 dst.code :: v :: dst.bytes
  | .cmpQ sz v dst => byte53 26#5 (0#2 ++ sz.bit) :: byte44 v dst.code :: dst.bytes
  | .popWS a => [byte53 (13#4 ++ a.bit) 2#3]
  | .stnz v dst => byte53 26#5 dst.code :: v :: dst.bytes
  | .movQ sz v dst => byte53 27#5 (0#2 ++ sz.bit) :: byte44 v dst.code :: dst.bytes
  | .stzx v1 v2 dst => byte53 27#5 dst.code :: v1 :: dst.bytes ++ [v2]
  | .rotImm sz n dst => byte53 28#5 (0#2 ++ sz.bit) :: byte44 n dst.code :: dst.bytes
  | .movBSImmAn v a => [byte53 (14#4 ++ a.bit) 2#3, v]
  | .cmpBSImm v dst => byte53 28#5 dst.code :: v :: dst.bytes
  | .shlImm sz n dst => byte53 29#5 (0#2 ++ sz.bit) :: byte44 n dst.code :: dst.bytes
  | .ldcImm v c => byte53 29#5 3#3 :: byte44 (0#1 ++ c.code) 0#4 :: le16 v
  | .shlLR1H p => [byte53 29#5 3#3, byte44 (0#3 ++ p.bit) 1#4]
  | .shaLR1H p => [byte53 29#5 3#3, byte44 (1#3 ++ p.bit) 1#4]
  | .pushc c => [byte53 29#5 3#3, byte44 (0#1 ++ c.code) 2#4]
  | .popc c => [byte53 29#5 3#3, byte44 (0#1 ++ c.code) 3#4]
  | .fset f => [byte53 29#5 3#3, byte44 (0#1 ++ f.code) 4#4]
  | .fclr f => [byte53 29#5 3#3, byte44 (0#1 ++ f.code) 5#4]
  | .mova src r => byte53 29#5 3#3 :: byte44 (0#1 ++ r.code) (1#1 ++ src.relCode) :: src.bytes
  | .shlLImm n p => [byte53 29#5 3#3, byte44 (4#3 ++ p.bit) n]
  | .shaLImm n p => [byte53 29#5 3#3, byte44 (5#3 ++ p.bit) n]
  | .int n => [byte53 29#5 3#3, byte44 (3#2 ++ n.extractLsb' 4 2) (n.extractLsb' 0 4)]
  | .pushm list => [byte53 29#5 4#3, list]
  | .popm list => [byte53 29#5 5#3, list]
  | .jmps n => [byte53 29#5 6#3, n]
  | .jsrs n => [byte53 29#5 7#3, n]
  | .shaImm sz n dst => byte53 30#5 (0#2 ++ sz.bit) :: byte44 n dst.code :: dst.bytes
  | .decW a => [byte53 (15#4 ++ a.bit) 2#3]
  | .rts => [byte53 30#5 3#3]
  | .jmpW d => byte53 30#5 4#3 :: le16 d
  | .jsrW d => byte53 30#5 5#3 :: le16 d
  | .into => [byte53 30#5 6#3]
  | .adjnz sz v dst d => byte53 31#5 (0#2 ++ sz.bit) :: byte44 v dst.code :: dst.bytes ++ [d]
  | .sbjnz sz v dst d => byte53 31#5 (0#2 ++ sz.bit) :: byte44 v dst.code :: dst.bytes ++ [d]
  | .reit => [byte53 31#5 3#3]
  | .jmpA a => byte53 31#5 4#3 :: le20 a
  | .jsrA a => byte53 31#5 5#3 :: le20 a
  | .jmpB d => [byte53 31#5 6#3, d]
  | .und => [byte53 31#5 7#3]
  | .ldintb v => (byte53 29#5 3#3 :: byte44 2#4 0#4 :: le16 (0#12 ++ v.extractLsb' 16 4)) ++
      (byte53 29#5 3#3 :: byte44 1#4 0#4 :: le16 (v.extractLsb' 0 16))

/-! Lengths (R147). -/

/-- Bytes a memory mode adds (R150). -/
def Ea.len : Ea → Nat
  | .ind _ => 0
  | .rel8 _ _ => 1
  | .sb8 _ => 1
  | .fb8 _ => 1
  | .rel16 _ _ => 2
  | .sb16 _ => 2
  | .abs16 _ => 2

/-- Bytes a general operand adds (R150). -/
def Operand.len : Operand → Nat
  | .data _ => 0
  | .addr _ => 0
  | .mem e => e.len

/-- Bytes a short memory mode adds (R152, R153). -/
def ShortMem.len : ShortMem → Nat
  | .sb8 _ => 1
  | .fb8 _ => 1
  | .abs16 _ => 2

/-- Bytes a short source adds (R153). -/
def ShortSrc.len : ShortSrc → Nat
  | .other => 0
  | .mem m => m.len

/-- Bytes a short destination adds (R152). -/
def ShortDest.len : ShortDest → Nat
  | .half _ => 0
  | .mem m => m.len

/-- Bytes of a generic immediate (R155). -/
def Imm.len : Imm → Nat
  | .b _ => 1
  | .w _ => 2

/-- Bytes a bit operand adds (R156). -/
def BitOp.len : BitOp → Nat
  | .reg _ _ => 1
  | .ind _ => 0
  | .rel8 _ _ => 1
  | .sb8 _ => 1
  | .fb8 _ => 1
  | .rel16 _ _ => 2
  | .sb16 _ => 2
  | .abs16 _ => 2

/-- Bytes an indirect jump's memory mode adds (R448). -/
def JmpEa.len : JmpEa → Nat
  | .ind _ => 0
  | .rel8 _ _ => 1
  | .sb8 _ => 1
  | .fb8 _ => 1
  | .rel20 _ _ => 3
  | .sb16 _ => 2
  | .abs16 _ => 2

/-- Bytes a `JMPI.W` source adds (R448). -/
def JmpW.len : JmpW → Nat
  | .reg _ => 0
  | .mem e => e.len

/-- Bytes a `JMPI.A` source adds (R449). -/
def JmpA.len : JmpA → Nat
  | .pair _ => 0
  | .mem e => e.len

/-- Bytes a `STC PC` destination adds (R527). -/
def PcDest.len : PcDest → Nat
  | .pair _ => 0
  | .mem e => e.len

/-- The length of an instruction in bytes (R147 and the `length` column of spec/opcode_table.json). -/
def Instr.length : Instr → Nat
  | .brk => 1
  | .movBSHalfDest _ m => 1 + m.len
  | .nop => 1
  | .movBSSrcHalf _ src => 1 + src.len
  | .andBSSrc _ src => 1 + src.len
  | .orBSSrc _ src => 1 + src.len
  | .addBSSrc _ src => 1 + src.len
  | .subBSSrc _ src => 1 + src.len
  | .movBSSrcAn _ src => 1 + src.len
  | .cmpBSSrc _ src => 1 + src.len
  | .bclrS _ _ => 2
  | .bsetS _ _ => 2
  | .bnotS _ _ => 2
  | .btstS _ _ => 2
  | .jmpS _ => 1
  | .jcnd8 _ _ => 2
  | .muluSrc _ src dst => 2 + src.len + dst.len
  | .movGSrc _ src dst => 2 + src.len + dst.len
  | .steAbs20 _ src _ => 2 + src.len + 3
  | .steDsp20 _ src _ => 2 + src.len + 3
  | .steA1A0 _ src => 2 + src.len
  | .movGToSp _ src _ => 2 + src.len + 1
  | .pushG _ src => 2 + src.len
  | .neg _ dst => 2 + dst.len
  | .rotR1H _ dst => 2 + dst.len
  | .notG _ dst => 2 + dst.len
  | .ldeAbs20 _ _ dst => 2 + dst.len + 3
  | .ldeDsp20 _ _ dst => 2 + dst.len + 3
  | .ldeA1A0 _ dst => 2 + dst.len
  | .movGFromSp _ _ dst => 2 + dst.len + 1
  | .movGImm v dst => 2 + dst.len + v.len
  | .popG _ dst => 2 + dst.len
  | .shlR1H _ dst => 2 + dst.len
  | .shaR1H _ dst => 2 + dst.len
  | .tstImm v dst => 2 + dst.len + v.len
  | .xorImm v dst => 2 + dst.len + v.len
  | .andGImm v dst => 2 + dst.len + v.len
  | .orGImm v dst => 2 + dst.len + v.len
  | .addGImm v dst => 2 + dst.len + v.len
  | .subGImm v dst => 2 + dst.len + v.len
  | .adcImm v dst => 2 + dst.len + v.len
  | .sbbImm v dst => 2 + dst.len + v.len
  | .cmpGImm v dst => 2 + dst.len + v.len
  | .divxSrc _ src => 2 + src.len
  | .rolc _ dst => 2 + dst.len
  | .rorc _ dst => 2 + dst.len
  | .divuSrc _ src => 2 + src.len
  | .divSrc _ src => 2 + src.len
  | .adcf _ dst => 2 + dst.len
  | .abs _ dst => 2 + dst.len
  | .mulSrc _ src dst => 2 + src.len + dst.len
  | .xchg _ _ dst => 2 + dst.len
  | .ldcSrc src _ => 2 + src.len
  | .stcDest _ dst => 2 + dst.len
  | .movDirToR0L _ src => 2 + src.len
  | .movDirFromR0L _ dst => 2 + dst.len
  | .jmpiA src => 2 + src.len
  | .jsriA src => 2 + src.len
  | .jmpiW src => 2 + src.len
  | .jsriW src => 2 + src.len
  | .muluImm v dst => 2 + dst.len + v.len
  | .mulImm v dst => 2 + dst.len + v.len
  | .extsB dst => 2 + dst.len
  | .pusha src => 2 + src.len
  | .ldipl _ => 2
  | .addQSp _ => 2
  | .stcPc dst => 2 + dst.len
  | .jcnd16 _ _ => 3
  | .bmcndC _ => 2
  | .divuImm v => 2 + v.len
  | .divImm v => 2 + v.len
  | .pushGImm v => 2 + v.len
  | .divxImm v => 2 + v.len
  | .daddBReg => 2
  | .daddWReg => 2
  | .dsubBReg => 2
  | .dsubWReg => 2
  | .dadcBReg => 2
  | .dadcWReg => 2
  | .dsbbBReg => 2
  | .dsbbWReg => 2
  | .smovf _ => 2
  | .smovb _ => 2
  | .sstr _ => 2
  | .addGSp v => 2 + v.len
  | .daddBImm _ => 3
  | .daddWImm _ => 4
  | .dsubBImm _ => 3
  | .dsubWImm _ => 4
  | .dadcBImm _ => 3
  | .dadcWImm _ => 4
  | .dsbbBImm _ => 3
  | .dsbbWImm _ => 4
  | .ldctx _ _ => 7
  | .stctx _ _ => 7
  | .rmpa _ => 2
  | .enter _ => 3
  | .exitd => 2
  | .extsW => 2
  | .wait => 2
  | .btstc dst => 2 + dst.len
  | .btsts dst => 2 + dst.len
  | .bmcnd dst _ => 2 + dst.len + 1
  | .bntst src => 2 + src.len
  | .band src => 2 + src.len
  | .bnand src => 2 + src.len
  | .bor src => 2 + src.len
  | .bnor src => 2 + src.len
  | .bclrG dst => 2 + dst.len
  | .bsetG dst => 2 + dst.len
  | .bnotG dst => 2 + dst.len
  | .btstG src => 2 + src.len
  | .bxor src => 2 + src.len
  | .bnxor src => 2 + src.len
  | .tstSrc _ src dst => 2 + src.len + dst.len
  | .pushBS _ => 1
  | .addBSImm _ dst => 2 + dst.len
  | .xorSrc _ src dst => 2 + src.len + dst.len
  | .subBSImm _ dst => 2 + dst.len
  | .andGSrc _ src dst => 2 + src.len + dst.len
  | .popBS _ => 1
  | .andBSImm _ dst => 2 + dst.len
  | .orGSrc _ src dst => 2 + src.len + dst.len
  | .orBSImm _ dst => 2 + dst.len
  | .addGSrc _ src dst => 2 + src.len + dst.len
  | .movWSImmAn _ _ => 3
  | .incB dst => 1 + dst.len
  | .subGSrc _ src dst => 2 + src.len + dst.len
  | .decB dst => 1 + dst.len
  | .adcSrc _ src dst => 2 + src.len + dst.len
  | .incW _ => 1
  | .movBZ dst => 1 + dst.len
  | .sbbSrc _ src dst => 2 + src.len + dst.len
  | .notBS dst => 1 + dst.len
  | .cmpGSrc _ src dst => 2 + src.len + dst.len
  | .pushWS _ => 1
  | .movBSImm _ dst => 2 + dst.len
  | .addQ _ _ dst => 2 + dst.len
  | .stz _ dst => 2 + dst.len
  | .cmpQ _ _ dst => 2 + dst.len
  | .popWS _ => 1
  | .stnz _ dst => 2 + dst.len
  | .movQ _ _ dst => 2 + dst.len
  | .stzx _ _ dst => 2 + dst.len + 1
  | .rotImm _ _ dst => 2 + dst.len
  | .movBSImmAn _ _ => 2
  | .cmpBSImm _ dst => 2 + dst.len
  | .shlImm _ _ dst => 2 + dst.len
  | .ldcImm _ _ => 4
  | .shlLR1H _ => 2
  | .shaLR1H _ => 2
  | .pushc _ => 2
  | .popc _ => 2
  | .fset _ => 2
  | .fclr _ => 2
  | .mova src _ => 2 + src.len
  | .shlLImm _ _ => 2
  | .shaLImm _ _ => 2
  | .int _ => 2
  | .pushm _ => 2
  | .popm _ => 2
  | .jmps _ => 2
  | .jsrs _ => 2
  | .shaImm _ _ dst => 2 + dst.len
  | .decW _ => 1
  | .rts => 1
  | .jmpW _ => 3
  | .jsrW _ => 3
  | .into => 1
  | .adjnz _ _ dst _ => 2 + dst.len + 1
  | .sbjnz _ _ dst _ => 2 + dst.len + 1
  | .reit => 1
  | .jmpA _ => 4
  | .jsrA _ => 4
  | .jmpB _ => 2
  | .und => 1
  | .ldintb _ => 8

/-- The bytes of an instruction numbered as spec/opcode_table.json numbers them: the opcode word of `n` bytes is
read with its first byte in the highest bits (its `fixed` and `source_fields` columns), so bit 0 is the least
significant bit of the last opcode byte. -/
def tableBytes : Nat → Nat → List Byte
  | 0, _ => []
  | n + 1, w => BitVec.ofNat 8 (w >>> (8 * n)) :: tableBytes n w

/-- The eight bytes that stand in memory for a table word: its bytes, then zeros. -/
def tableWordBytes (nbits w : Nat) : List Byte :=
  (tableBytes ((nbits + 7) / 8) w ++ List.replicate 8 0#8).take 8

/-- The instruction the decoder reads from a table word. -/
def decodeTableWord (nbits w : Nat) : Option Instr :=
  match decode (tableWordBytes nbits w) with
  | .ok (i, _) => some i
  | .error _ => none

end Sys2Proof
end

