-- ==== Sys2Proof/Config.lean ====
section
/-! DEFINITION. What the product fixes (spec/93_implementation_defined.md part 3), the fixed addresses of the
vector tables, and the free values: every value the spec leaves open is an `opaque` constant applied to a counter. -/

namespace Sys2Proof

/-- A freely drawn bit (`any bit` of R13); the argument numbers the draw. -/
opaque Config.freeBit : Nat → Bool

/-- A freely drawn value of `w` bits (`any_W` of R13); the argument numbers the draw. -/
opaque Config.freeVal (w : Nat) : Nat → BitVec w

/-- The freely drawn bytes that a reset leaves in RAM and in the SFR area (R601, D2). -/
opaque Config.freeCells : Nat → List Host.Cell

/-- The parameters the spec leaves to the product and that change a result (R8, 93 part 3). `BUS_WIDTH`,
`WAIT_STATES` and `HAS_MULTIPLIER` change time only and are not here. -/
structure Product where
  /-- `SFR_LOW`, the lowest address of the SFR area (D11). -/
  sfrLow : Addr
  /-- `RAM_TOP`, the last RAM address (D12). -/
  ramTop : Addr
  /-- `ROM_BASE`, the first ROM address (D12). -/
  romBase : Addr
  /-- `IPL_MOV_LATENCY` (D16). -/
  levelLatency : Nat
  /-- DBC belongs to `DEBUG_SOURCES` (D29). -/
  dbc : Bool
  /-- Address match belongs to `DEBUG_SOURCES` (D29). -/
  addressMatch : Bool
  deriving DecidableEq, Repr

/-- The product of `State.reset`: defaults of 93 part 3 where it gives them; DESIGN CHOICE for the RAM and ROM
extents, which it leaves to the product (assumption log 4). -/
def Product.default : Product :=
  { sfrLow := 0x00000#20, ramTop := 0xEFFFF#20, romBase := 0xF0000#20, levelLatency := 3
    dbc := false, addressMatch := false }

/-- The ranges the spec gives the parameters (93 part 3). -/
def Product.legal (p : Product) : Bool :=
  p.sfrLow.toNat ≤ 0x3FF && 0x400 ≤ p.ramTop.toNat && p.ramTop.toNat < p.romBase.toNat &&
    p.romBase.toNat ≤ 0xFFE00 && (p.levelLatency == 2 || p.levelLatency == 3)

/-- Boundaries at which the level and the request bit from before a store to an interrupt control register may still be
judged: to the end of the second following instruction (R615), and as long as the product's latency (R613); the longer
of the two (log 20). -/
def Product.storeWindow (p : Product) : Nat := max p.levelLatency 3

/-- First address above the SFR area (R71). -/
def Config.ramBase : Nat := 0x400

/-- Fixed interrupt vector table (R86). -/
def Config.undVector : Addr := 0xFFFDC#20
/-- Overflow vector (R86). -/
def Config.intoVector : Addr := 0xFFFE0#20
/-- BRK vector (R86). -/
def Config.brkVector : Addr := 0xFFFE4#20
/-- Address-match vector (R86). -/
def Config.matchVector : Addr := 0xFFFE8#20
/-- Single-step vector (R86). -/
def Config.stepVector : Addr := 0xFFFEC#20
/-- Watchdog timer vector (R86). -/
def Config.watchdogVector : Addr := 0xFFFF0#20
/-- DBC vector (R86). -/
def Config.dbcVector : Addr := 0xFFFF4#20
/-- NMI vector (R86). -/
def Config.nmiVector : Addr := 0xFFFF8#20
/-- Reset vector (R86). -/
def Config.resetVector : Addr := 0xFFFFC#20

/-- Boundaries at which the IPL before an `LDC`, `POPC` or `LDIPL` may still be judged (R613). -/
def Config.iplWindow : Nat := 3
/-- Boundaries at which the IPL before a `REIT` may still be judged (R613). -/
def Config.iplWindowReit : Nat := 2

end Sys2Proof
end

