-- ==== Sys2Proof/Machine/Memory.lean ====
section
/-! DEFINITION. The stored bytes of the address space as a list in one canonical form (spec/20_memory.md R70). -/

namespace Sys2Proof.Machine

/-- What an address that the list does not name reads as. DESIGN CHOICE (assumption log 2): R601 leaves RAM and the
SFR area after reset open. -/
def unlisted : Byte := 0x00#8

/-- The byte stored at an address. -/
def memGet : List Host.Cell → Nat → Byte
  | [], _ => unlisted
  | (k, v) :: m, a => if a < k then unlisted else if a = k then v else memGet m a

/-- Stores a byte; storing what an unlisted address reads as removes the entry. -/
def memSet : List Host.Cell → Nat → Byte → List Host.Cell
  | [], a, v => if v = unlisted then [] else [(a, v)]
  | (k, w) :: m, a, v =>
    if a < k then (if v = unlisted then (k, w) :: m else (a, v) :: (k, w) :: m)
    else if a = k then (if v = unlisted then m.dropWhile (fun c => decide (c.1 ≤ a)) else (a, v) :: m)
    else (k, w) :: memSet m a v

/-- The canonical form: addresses below 2^20, strictly rising, and no entry equal to what an unlisted address reads
as. -/
abbrev memWf (m : List Host.Cell) : Prop :=
  m.Pairwise (fun x y => x.1 < y.1) ∧ ∀ c ∈ m, c.1 < 2 ^ 20 ∧ c.2 ≠ unlisted

/-- Stores the listed bytes of the RAM and SFR area, one after another. -/
def memFill (last : Nat) (m : List Host.Cell) : List Host.Cell → List Host.Cell
  | [] => m
  | (a, v) :: rest => memFill last (if a ≤ last ∧ a < 2 ^ 20 then memSet m a v else m) rest

/-- The low 20 bits of the four bytes at an address, as a vector is read (R74, R560). -/
def memVector (m : List Host.Cell) (a : Addr) : Addr :=
  (memGet m (a + 2).toNat).extractLsb' 0 4 ++ memGet m (a + 1).toNat ++ memGet m a.toNat

end Sys2Proof.Machine
end

