-- ==== Sys2Proof/Machine/State.lean ====
section
/-! DEFINITION. The state of the machine as plain data, what stops it, and the state after reset
(spec/10_state.md R20 to R63, spec/60_exceptions.md R552). -/

namespace Sys2Proof.Machine

/-- One register bank (R20, R26). -/
structure Bank where
  r0 : Word
  r1 : Word
  r2 : Word
  r3 : Word
  a0 : Word
  a1 : Word
  fb : Word
  deriving DecidableEq, Repr

/-- The 11 implemented bits of FLG (R40); the reserved bits have no storage (R50). -/
structure Flg where
  c : Bool
  d : Bool
  z : Bool
  s : Bool
  b : Bool
  o : Bool
  i : Bool
  u : Bool
  ipl : BitVec 3
  deriving DecidableEq, Repr

/-- An earlier level (and request bit) that the acceptance test may still see, and for how many more boundaries
(R613, R615). -/
structure Window where
  level : BitVec 3
  ir : Bool
  left : Nat
  deriving DecidableEq, Repr

/-- One peripheral interrupt source (R552): its software interrupt number, the address of its interrupt control
register, its request bit and its level, and the earlier values still visible (R613). The list of sources stands in
the order `HW_PRIORITY` (D15), highest first. -/
structure Source where
  num : BitVec 5
  icr : Addr
  ir : Bool
  ilvl : BitVec 3
  old : List Window
  deriving DecidableEq, Repr

/-- One address-match register with its enable bit (R550). -/
structure MatchReg where
  addr : Addr
  enabled : Bool
  deriving DecidableEq, Repr

/-- Whether an access reads or writes. -/
inductive Direction | read | write
  deriving DecidableEq, Repr

/-- One access of the CPU that touches the SFR area: its address, its width in bytes, its value zero-extended, and its
direction (R631). -/
structure SfrAccess where
  addr : Addr
  width : Nat
  value : BitVec 32
  dir : Direction
  deriving DecidableEq, Repr

/-- The whole machine. `prevI`, `iplOld`, `resume`, `queue`, `matchReq`, `sfrTrace` and `draws` are said in INVENTORY.md to
be the model's form of hidden state the spec describes; the rest are the spec's own names. -/
structure State where
  /-- Register bank 0 (R20). -/
  bank0 : Bank
  /-- Register bank 1 (R20). -/
  bank1 : Bank
  /-- Static base register (R25). -/
  sb : Word
  /-- User stack pointer (R36). -/
  usp : Word
  /-- Interrupt stack pointer (R36). -/
  isp : Word
  /-- Interrupt table register (R37). -/
  intb : Addr
  /-- Program counter (R30). -/
  pc : Addr
  /-- Flag register (R40). -/
  flg : Flg
  /-- The stored bytes of the address space (R70). -/
  mem : List Host.Cell
  /-- `int_shadow`: no hardware interrupt at the next boundary (R58, R558). -/
  intShadow : Bool
  /-- `waiting`: stopped by `WAIT` (R59, R537). -/
  waiting : Bool
  /-- The I flag as it was before the instruction just completed, when that was `FCLR`, `FSET`, `POPC` or `LDC`
  (R559). -/
  prevI : Option Bool
  /-- Values of IPL the acceptance test may still see, and at how many more boundaries (R613). -/
  iplOld : List (BitVec 3 × Nat)
  /-- The string or sum-of-products instruction in progress, between two of its iterations (R480). -/
  resume : Option Instr
  /-- The instruction queue: bytes prefetched before a store replaced them in memory (R55, R128). -/
  queue : List Host.Cell
  /-- The peripheral interrupt sources (R552). -/
  sources : List Source
  /-- `nmi_req` (R552). -/
  nmiReq : Bool
  /-- `wdt_req` (R552). -/
  wdtReq : Bool
  /-- `dbc_req` (R552). -/
  dbcReq : Bool
  /-- The single-step request (R549). -/
  stepReq : Bool
  /-- The RESET pin asserts reset (R545). -/
  resetReq : Bool
  /-- The address-match registers (R550). -/
  matchRegs : List MatchReg
  /-- The address-match request: a match that was not accepted where it arose stays pending (R554, R556, R570). -/
  matchReq : Bool
  /-- The accesses of this run to the SFR area, the latest first: the observable behaviour (R631). -/
  sfrTrace : List SfrAccess
  /-- The product's parameters (R8). -/
  product : Product
  /-- The model's own counter of free draws. -/
  draws : Nat
  deriving DecidableEq, Repr

/-- Why a run stops without a next state although the instruction is assigned. -/
inductive Fault
  /-- Raised by a store to `ROM_BASE` or above. The spec refuses such a program (D12); the hardware goes on. Safe. -/
  | romWrite (a : Addr)
  /-- Raised by a store between `RAM_TOP` and `ROM_BASE`, where the product has nothing. The spec refuses such a
  program (D12); the hardware goes on. Safe. -/
  | unmappedWrite (a : Addr)
  deriving DecidableEq, Repr

/-- Why a run stops on an instruction the spec gives no meaning. -/
inductive Refusal
  /-- Raised by an arm of `exec` whose instruction has no meaning yet. Safe. -/
  | notModelled (mnemonic : String)
  /-- Raised by a code that no opcode table assigns (R170, D19). The hardware goes on. Safe. -/
  | unassignedEncoding
  /-- Raised by an operand code or value that the instruction does not accept (R171, D19, D20). The hardware goes
  on. Safe. -/
  | reservedEncoding
  deriving DecidableEq, Repr

/-- A bank of zeros. -/
def Bank.zero : Bank := { r0 := 0, r1 := 0, r2 := 0, r3 := 0, a0 := 0, a1 := 0, fb := 0 }

/-- FLG = 0000h (R62). -/
def Flg.zero : Flg :=
  { c := false, d := false, z := false, s := false, b := false, o := false, i := false, u := false, ipl := 0 }

/-- The machine right after reset (R62, R63, R545, R601). DESIGN CHOICE where the spec leaves a value open: bank 1
zero (log 1), memory (log 2), no pending request, no sources and no address-match registers (log 3), the product
(log 4), the draw counter (log 5). The run has made no access yet (R631). -/
def State.reset : State :=
  { bank0 := Bank.zero, bank1 := Bank.zero, sb := 0, usp := 0, isp := 0, intb := 0
    pc := memVector [] Config.resetVector, flg := Flg.zero, mem := []
    intShadow := true, waiting := false, prevI := none, iplOld := [], resume := none, queue := []
    sources := [], nmiReq := false, wdtReq := false, dbcReq := false, stepReq := false, resetReq := false
    matchRegs := [], matchReq := false, sfrTrace := [], product := Product.default, draws := 0 }

end Sys2Proof.Machine
end

