-- ==== Sys2Proof/Machine/Flags.lean ====
section
/-! DEFINITION. FLG as a word, the conditions, and every flag computation (spec/10_state.md R40 to R50,
spec/00_scope.md R13 and R14, spec/42_shift.md, spec/44_decimal_muldiv.md R381, R398). -/

namespace Sys2Proof.Machine

/-- FLG as 16 bits, reserved bits 0 (R40, R50). -/
def Flg.toWord (f : Flg) : Word :=
  0#1 ++ f.ipl ++ 0#4 ++ BitVec.ofBool f.u ++ BitVec.ofBool f.i ++ BitVec.ofBool f.o ++ BitVec.ofBool f.b ++
    BitVec.ofBool f.s ++ BitVec.ofBool f.z ++ BitVec.ofBool f.d ++ BitVec.ofBool f.c

/-- `WriteFLG`: FLG from 16 bits, reserved bits ignored (R491). -/
def Flg.ofWord (v : Word) : Flg :=
  { c := v.getLsbD 0, d := v.getLsbD 1, z := v.getLsbD 2, s := v.getLsbD 3, b := v.getLsbD 4, o := v.getLsbD 5
    i := v.getLsbD 6, u := v.getLsbD 7, ipl := v.extractLsb' 12 3 }

/-- Sets the named flag to a value and nothing else (R499, R502). -/
def Flg.put (f : Flg) (n : FlagName) (v : Bool) : Flg :=
  match n with
  | .c => { f with c := v }
  | .d => { f with d := v }
  | .z => { f with z := v }
  | .s => { f with s := v }
  | .b => { f with b := v }
  | .o => { f with o := v }
  | .i => { f with i := v }
  | .u => { f with u := v }

/-- The truth of a condition (R441). -/
def condHolds (c : Cond) (f : Flg) : Bool :=
  match c with
  | .geu => f.c
  | .gtu => f.c && !f.z
  | .eq => f.z
  | .n => f.s
  | .ltu => !f.c
  | .leu => !(f.c && !f.z)
  | .ne => !f.z
  | .pz => !f.s
  | .le => (f.s ^^ f.o) || f.z
  | .o => f.o
  | .ge => !(f.s ^^ f.o)
  | .gt => !(f.s ^^ f.o) && !f.z
  | .no => !f.o
  | .lt => f.s ^^ f.o

/-- `SetSZ` (R13). -/
def setSZ {w : Nat} (v : BitVec w) (f : Flg) : Flg := { f with s := v.msb, z := v == 0#w }

/-- A signed result lies outside `w` bits (R14). -/
def outOfRange (w : Nat) (t : Int) : Bool :=
  decide (t > ((2 ^ (w - 1) : Nat) : Int) - 1) || decide (t < -((2 ^ (w - 1) : Nat) : Int))

/-- `AddFlags`: the sum and the flags O, S, Z, C (R14). -/
def addFlags {w : Nat} (a b : BitVec w) (cin : Bool) (f : Flg) : BitVec w × Flg :=
  let u : Nat := a.toNat + b.toNat + cin.toNat
  let t : Int := a.toInt + b.toInt + (cin.toNat : Int)
  let r := BitVec.ofNat w u
  (r, setSZ r { f with c := decide (u > 2 ^ w - 1), o := outOfRange w t })

/-- `SubFlags`: `a - b - borrow` and the flags O, S, Z, C (R14). -/
def subFlags {w : Nat} (a b : BitVec w) (borrow : Bool) (f : Flg) : BitVec w × Flg :=
  let u : Int := (a.toNat : Int) - (b.toNat : Int) - (borrow.toNat : Int)
  let t : Int := a.toInt - b.toInt - (borrow.toNat : Int)
  let r := BitVec.ofInt w u
  (r, setSZ r { f with c := decide (u ≥ 0), o := outOfRange w t })

/-- A two-operand operation at any width: destination, source, flags before; result, flags after. -/
abbrev AluOp := (w : Nat) → BitVec w → BitVec w → Flg → BitVec w × Flg

/-- `ADD` (R335). -/
def aluAdd : AluOp := fun _ d s f => addFlags d s false f
/-- `ADC` (R332). -/
def aluAdc : AluOp := fun _ d s f => addFlags d s f.c f
/-- `SUB` and `CMP` (R342, R356). -/
def aluSub : AluOp := fun _ d s f => subFlags d s false f
/-- `SBB`: the borrow is the inverse of C (R354). -/
def aluSbb : AluOp := fun _ d s f => subFlags d s (!f.c) f
/-- `AND` and `TST` (R421, R431). -/
def aluAnd : AluOp := fun _ d s f => (d &&& s, setSZ (d &&& s) f)
/-- `OR` (R427). -/
def aluOr : AluOp := fun _ d s f => (d ||| s, setSZ (d ||| s) f)
/-- `XOR` (R433). -/
def aluXor : AluOp := fun _ d s f => (d ^^^ s, setSZ (d ^^^ s) f)

/-- A one-operand operation at any width. -/
abbrev UnaryOp := (w : Nat) → BitVec w → Flg → BitVec w × Flg

/-- `ADCF` (R334). -/
def unAdcf : UnaryOp := fun w d f => addFlags d 0#w f.c f
/-- `NEG` (R353). -/
def unNeg : UnaryOp := fun w d f => subFlags 0#w d false f
/-- `NOT` (R425). -/
def unNot : UnaryOp := fun _ d f => (~~~d, setSZ (~~~d) f)
/-- `INC`: S and Z only (R351). -/
def unInc : UnaryOp := fun w d f => (d + 1#w, setSZ (d + 1#w) f)
/-- `DEC`: S and Z only (R347). -/
def unDec : UnaryOp := fun w d f => (d - 1#w, setSZ (d - 1#w) f)
/-- `ABS`, with the C it leaves (undefined, R331, I6) as an argument. -/
def unAbs (anyC : Bool) : UnaryOp := fun w d f =>
  let r := if d.toInt < 0 then 0#w - d else d
  (r, setSZ r { f with o := d.toNat == 2 ^ (w - 1), c := anyC })
/-- `ROLC` (R302). -/
def unRolc : UnaryOp := fun w d f =>
  let r := (d <<< 1) ||| BitVec.ofNat w f.c.toNat
  (r, setSZ r { f with c := d.msb })
/-- `RORC` (R303). -/
def unRorc : UnaryOp := fun w d f =>
  let r := (d >>> 1) ||| (BitVec.ofNat w f.c.toNat <<< (w - 1))
  (r, setSZ r { f with c := d.getLsbD 0 })

/-! Shifts and rotates (R300 to R313). -/

/-- What a shift does with the bit it moves in. -/
inductive ShiftKind | rotate | arith | logical
  deriving DecidableEq, Repr

/-- One position: the new value and the bit that left (R304, R306, R310). -/
def shiftStep (k : ShiftKind) (left : Bool) {w : Nat} (d : BitVec w) : BitVec w × Bool :=
  if left then
    match k with
    | .rotate => ((d <<< 1) ||| BitVec.ofNat w d.msb.toNat, d.msb)
    | .arith => (d <<< 1, d.msb)
    | .logical => (d <<< 1, d.msb)
  else
    match k with
    | .rotate => ((d >>> 1) ||| (BitVec.ofNat w (d.getLsbD 0).toNat <<< (w - 1)), d.getLsbD 0)
    | .arith => ((d >>> 1) ||| (BitVec.ofNat w d.msb.toNat <<< (w - 1)), d.getLsbD 0)
    | .logical => (d >>> 1, d.getLsbD 0)

/-- `n` single positions; the second component is the bit that left last (R300). -/
def shiftBy (k : ShiftKind) (left : Bool) {w : Nat} : Nat → BitVec w × Bool → BitVec w × Bool
  | 0, p => p
  | n + 1, p => shiftBy k left n (shiftStep k left p.1)

/-- A shift by a legal count other than 0 at `.B` or `.W`: C is the bit that left last, S and Z follow the result, and
for `SHA` O tells whether the MSB changed (R304, R306, R310, D21). -/
def shiftFlags (k : ShiftKind) (left : Bool) (n : Nat) : UnaryOp := fun _ d f =>
  let p := shiftBy k left n (d, f.c)
  let o := match k with
    | .rotate => f.o
    | .arith => p.1.msb != d.msb
    | .logical => f.o
  (p.1, setSZ p.1 { f with c := p.2, o := o })

/-- A shift by a legal count other than 0 at `.L`: S is bit 31, Z and C are the free bits given, O stays
(R308, R312, I5). -/
def shiftFlagsL (k : ShiftKind) (left : Bool) (n : Nat) (anyZ anyC : Bool) (d : BitVec 32) (f : Flg) :
    BitVec 32 × Flg :=
  let p := shiftBy k left n (d, f.c)
  (p.1, { f with s := p.1.msb, z := anyZ, c := anyC })

/-- Direction and number of positions of an `IMM4` count (R154 column 3): left when its top bit is 0. -/
def immCount (n : BitVec 4) : Bool × Nat := (!n.msb, (n.extractLsb' 0 3).toNat + 1)

/-- Direction and number of positions of a count in R1H (R301). -/
def regCount (c : Byte) : Bool × Nat := (!c.msb, c.toInt.natAbs)

/-! Decimal arithmetic (R381). -/

/-- The number a BCD pattern of `n` digits stands for, or none when a digit is above 9. -/
def decValue : Nat → Nat → Option Nat
  | 0, _ => some 0
  | n + 1, x =>
    match decValue n (x / 16) with
    | some t => if x % 16 ≤ 9 then some (t * 10 + x % 16) else none
    | none => none

/-- The BCD pattern of `n` digits of a number. -/
def bcdOf : Nat → Nat → Nat
  | 0, _ => 0
  | n + 1, t => bcdOf n (t / 10) * 16 + t % 10

/-- `DecAdd` and `DecSub` on `digits` digits; none when an operand is no BCD pattern (R381, I7). -/
def decArith (sub : Bool) (digits : Nat) {w : Nat} (d s : BitVec w) (cin : Bool) (f : Flg) : Option (BitVec w × Flg) :=
  match decValue digits d.toNat, decValue digits s.toNat with
  | some x, some y =>
    let n : Nat := 10 ^ digits
    let t : Int := if sub then (x : Int) - y - cin.toNat else (x : Int) + y + cin.toNat
    let c : Bool := if sub then decide (t ≥ 0) else decide (t > (n : Int) - 1)
    let r := BitVec.ofNat w (bcdOf digits (t.emod n).toNat)
    some (r, setSZ r { f with c := c })
  | _, _ => none

/-! Multiplication and division (R398, R405). -/

/-- The exact product at twice the width (R405). -/
def mulExact (signed : Bool) {w : Nat} (a b : BitVec w) : BitVec (w + w) :=
  if signed then BitVec.ofInt (w + w) (a.toInt * b.toInt) else BitVec.ofNat (w + w) (a.toNat * b.toNat)

/-- `DIV`, `DIVU` or `DIVX`. -/
inductive DivKind | div | divu | divx
  deriving DecidableEq, Repr

/-- Quotient and remainder, or none when the divisor is 0 or the quotient does not fit (R398). -/
def divide (k : DivKind) {w : Nat} (n : BitVec (w + w)) (v : BitVec w) : Option (BitVec w × BitVec w) :=
  if v = 0#w then none
  else
    match k with
    | .divu =>
      let q := n.toNat / v.toNat
      if q > 2 ^ w - 1 then none else some (BitVec.ofNat w q, BitVec.ofNat w (n.toNat % v.toNat))
    | .div =>
      let q := n.toInt.tdiv v.toInt
      if outOfRange w q then none else some (BitVec.ofInt w q, BitVec.ofInt w (n.toInt - q * v.toInt))
    | .divx =>
      let q := n.toInt.fdiv v.toInt
      if outOfRange w q then none else some (BitVec.ofInt w q, BitVec.ofInt w (n.toInt - q * v.toInt))

end Sys2Proof.Machine
end

