-- ==== Sys2Proof/Machine/Registers.lean ====
section
/-! DEFINITION. The one way to read and to write each register (spec/10_state.md R21 to R38). -/

namespace Sys2Proof.Machine

/-- The selected bank (R26). -/
def State.bank (s : State) : Bank := if s.flg.b then s.bank1 else s.bank0

/-- Replaces the selected bank; the other bank stays (R26). -/
def State.setBank (s : State) (k : Bank) : State :=
  { s with bank0 := (if s.flg.b then s.bank0 else k), bank1 := (if s.flg.b then k else s.bank1) }

/-- Replaces FLG. -/
def State.setFlg (s : State) (f : Flg) : State := { s with flg := f }

/-- The stack pointer U selects (R36). -/
def State.sp (s : State) : Word := if s.flg.u then s.usp else s.isp

/-- Writes the stack pointer U selects (R36). -/
def State.setSp (s : State) (v : Word) : State :=
  { s with isp := (if s.flg.u then s.isp else v), usp := (if s.flg.u then v else s.usp) }

/-- High byte of a word. -/
def hiByte (v : Word) : Byte := v.extractLsb' 8 8

/-- Low byte of a word. -/
def loByte (v : Word) : Byte := v.extractLsb' 0 8

/-- Reads an address register (R24). -/
def State.areg (s : State) : AReg → Word
  | .a0 => s.bank.a0
  | .a1 => s.bank.a1

/-- Writes an address register (R24). -/
def State.setAreg (s : State) (a : AReg) (v : Word) : State :=
  match a with
  | .a0 => s.setBank { s.bank with a0 := v }
  | .a1 => s.setBank { s.bank with a1 := v }

/-- Reads a 16-bit data register (R21). -/
def State.dreg16 (s : State) : DReg → Word
  | .d0 => s.bank.r0
  | .d1 => s.bank.r1
  | .d2 => s.bank.r2
  | .d3 => s.bank.r3

/-- Writes a 16-bit data register (R21). -/
def State.setDreg16 (s : State) (r : DReg) (v : Word) : State :=
  match r with
  | .d0 => s.setBank { s.bank with r0 := v }
  | .d1 => s.setBank { s.bank with r1 := v }
  | .d2 => s.setBank { s.bank with r2 := v }
  | .d3 => s.setBank { s.bank with r3 := v }

/-- Reads R0L, R0H, R1L or R1H (R22). -/
def State.dreg8 (s : State) : DReg → Byte
  | .d0 => loByte s.bank.r0
  | .d1 => hiByte s.bank.r0
  | .d2 => loByte s.bank.r1
  | .d3 => hiByte s.bank.r1

/-- Writes R0L, R0H, R1L or R1H; the other half stays (R22). -/
def State.setDreg8 (s : State) (r : DReg) (v : Byte) : State :=
  match r with
  | .d0 => s.setBank { s.bank with r0 := hiByte s.bank.r0 ++ v }
  | .d1 => s.setBank { s.bank with r0 := v ++ loByte s.bank.r0 }
  | .d2 => s.setBank { s.bank with r1 := hiByte s.bank.r1 ++ v }
  | .d3 => s.setBank { s.bank with r1 := v ++ loByte s.bank.r1 }

/-- A half of R0 as a data register code (R22, R150). -/
def halfDreg : Half → DReg
  | .r0l => .d0
  | .r0h => .d1

/-- The half that is not this one (R153). -/
def halfFlip : Half → Half
  | .r0l => .r0h
  | .r0h => .r0l

/-- Reads a 16-bit general register (R91). -/
def State.reg16 (s : State) : Reg16 → Word
  | .r0 => s.bank.r0
  | .r1 => s.bank.r1
  | .r2 => s.bank.r2
  | .r3 => s.bank.r3
  | .a0 => s.bank.a0
  | .a1 => s.bank.a1

/-- Writes a 16-bit general register (R91). -/
def State.setReg16 (s : State) (r : Reg16) (v : Word) : State :=
  match r with
  | .r0 => s.setBank { s.bank with r0 := v }
  | .r1 => s.setBank { s.bank with r1 := v }
  | .r2 => s.setBank { s.bank with r2 := v }
  | .r3 => s.setBank { s.bank with r3 := v }
  | .a0 => s.setBank { s.bank with a0 := v }
  | .a1 => s.setBank { s.bank with a1 := v }

/-- Reads a 32-bit pair, high register first (R23, R24). -/
def State.pair (s : State) : Pair → BitVec 32
  | .r2r0 => s.bank.r2 ++ s.bank.r0
  | .r3r1 => s.bank.r3 ++ s.bank.r1
  | .a1a0 => s.bank.a1 ++ s.bank.a0

/-- Writes a 32-bit pair (R23, R24). -/
def State.setPair (s : State) (p : Pair) (v : BitVec 32) : State :=
  match p with
  | .r2r0 => s.setBank { s.bank with r2 := v.extractLsb' 16 16, r0 := v.extractLsb' 0 16 }
  | .r3r1 => s.setBank { s.bank with r3 := v.extractLsb' 16 16, r1 := v.extractLsb' 0 16 }
  | .a1a0 => s.setBank { s.bank with a1 := v.extractLsb' 16 16, a0 := v.extractLsb' 0 16 }

/-- A pair of data registers as one of the three pairs. -/
def dpairPair : DPair → Pair
  | .r2r0 => .r2r0
  | .r3r1 => .r3r1

/-- Writes the frame base of the selected bank (R25). -/
def State.setFb (s : State) (v : Word) : State := s.setBank { s.bank with fb := v }

/-- R1H as the shift count reads it (R301). -/
def State.count (s : State) : Byte := hiByte s.bank.r1

end Sys2Proof.Machine
end

