-- ==== Sys2Proof/Machine/Ops.lean ====
section
/-! DEFINITION. The operations every meaning is built of: sequencing, free draws, memory, the stack, the program
counter, and the interrupt sequence with the return from it (spec/20_memory.md R70 to R129,
spec/60_exceptions.md R560 to R562, spec/48_other.md R524). -/

namespace Sys2Proof.Machine

/-- What a meaning answers. -/
abbrev Result := Host.Outcome State Fault Refusal

/-- Goes on with the next state, or stops as the first part stopped. -/
def andThen (r : Result) (f : State → Result) : Result :=
  match r with
  | .next s => f s
  | .fault e => .fault e
  | .refused e => .refused e

/-! Free values. -/

/-- Draws a free bit. -/
def drawBit (s : State) : Bool × State := (Config.freeBit s.draws, { s with draws := s.draws + 1 })

/-- Draws a free value of `w` bits. -/
def drawVal (w : Nat) (s : State) : BitVec w × State :=
  (Config.freeVal w s.draws, { s with draws := s.draws + 1 })

/-! The address space. -/

/-- The address is between RAM and ROM, where the product has nothing (R71, D12). -/
def State.isHole (s : State) (a : Addr) : Bool :=
  decide (s.product.ramTop.toNat < a.toNat) && decide (a.toNat < s.product.romBase.toNat)

/-- The address is in ROM (R71). -/
def State.isRom (s : State) (a : Addr) : Bool := decide (s.product.romBase.toNat ≤ a.toNat)

/-- The first source whose interrupt control register is at the address. -/
def icrAt (l : List Source) (a : Addr) : Option Source := l.find? (fun x => x.icr == a)

/-- The byte at an address as a fetch shows it: an interrupt control register shows IR in bit 3 and the level in
bits 2 to 0 (R552; IR in bit 3 is log 16), every other address the stored byte. -/
def State.peek (s : State) (a : Addr) : Byte :=
  match icrAt s.sources a with
  | some x => (memGet s.mem a.toNat).extractLsb' 4 4 ++ BitVec.ofBool x.ir ++ x.ilvl
  | none => memGet s.mem a.toNat

/-- Position, in `HW_PRIORITY` order, of the source with the highest level among those given as judged: a pair of
"requests" and level for each source (R570). Equal levels go to the earlier one (D15). -/
def bestOf : Nat → List (Bool × BitVec 3) → Option (Nat × BitVec 3)
  | _, [] => none
  | k, (req, lvl) :: rest =>
    match bestOf (k + 1) rest with
    | none => if req then some (k, lvl) else none
    | some (j, best) => if req && decide (best.toNat ≤ lvl.toNat) then some (k, lvl) else some (j, best)

/-- Clears the request bit of the source at a position. -/
def clearIrAt : Nat → List Source → List Source
  | _, [] => []
  | 0, x :: rest => { x with ir := false } :: rest
  | k + 1, x :: rest => x :: clearIrAt k rest

/-- The effect of a read of 00000h: the request bit of the enabled request with the highest priority becomes 0
(R557, R82). -/
def clearBest (l : List Source) : List Source :=
  match bestOf 0 (l.map (fun x => (x.ir && decide (0 < x.ilvl.toNat), x.ilvl))) with
  | some (k, _) => clearIrAt k l
  | none => l

/-- The environment may have set the request bit at an interrupt control register by the time it is read (R555). -/
def raiseAt (a : Addr) (b : Bool) : List Source → List Source
  | [] => []
  | x :: rest => if x.icr = a then { x with ir := x.ir || b } :: rest else x :: raiseAt a b rest

/-- The address is in the SFR area (R71, R84). -/
def State.isSfr (s : State) (a : Addr) : Bool :=
  decide (s.product.sfrLow.toNat ≤ a.toNat) && decide (a.toNat < Config.ramBase)

/-- A read of the address gives a value the spec leaves open: 00000h (R557), the hole (D12), and the SFR area, where
the environment decides at any time what a read returns (R84, R555), but for its interrupt control registers. -/
def State.isOpen (s : State) (a : Addr) : Bool :=
  a == 0#20 || s.isHole a || (s.isSfr a && (icrAt s.sources a).isNone)

/-- What a read of an interrupt control register shows: the level, the request bit unless the environment has just set
it, and four open bits (R552, R555; IR in bit 3 is log 16). -/
def icrByte (x : Source) (n : Nat) : Byte :=
  Config.freeVal 4 n ++ BitVec.ofBool (x.ir || Config.freeBit n) ++ x.ilvl

/-- One byte read. A read of 00000h has the effect of R557; a read of an interrupt control register may find a request
that has just been raised (R555). -/
def busRead (a : Addr) (s : State) : Byte × State :=
  (if s.isOpen a then Config.freeVal 8 s.draws
   else match icrAt s.sources a with
     | some x => icrByte x s.draws
     | none => memGet s.mem a.toNat,
   { s with
     draws := (if s.isOpen a || (icrAt s.sources a).isSome then s.draws + 1 else s.draws)
     sources := (if a = 0#20 then clearBest s.sources else raiseAt a (Config.freeBit s.draws) s.sources) })

/-- The access touches the SFR area. -/
def State.touchesSfr (s : State) (a : Addr) (n : Nat) : Bool :=
  (List.range n).any fun k => s.isSfr (a + BitVec.ofNat 20 k)

/-- Adds an access of `n` bytes to the trace of the SFR area, if it touches it (R631). -/
def State.record (d : Direction) (a : Addr) (n : Nat) (v : BitVec 32) (s : State) : State :=
  { s with
    sfrTrace := if s.touchesSfr a n then { addr := a, width := n, value := v, dir := d } :: s.sfrTrace
      else s.sfrTrace }

/-- A read of `n` bytes enters the trace with its value. -/
def recordRead {w : Nat} (a : Addr) (n : Nat) (r : BitVec w × State) : BitVec w × State :=
  (r.1, r.2.record .read a n (r.1.setWidth 32))

/-- Two bytes read, the second at `a + 1` modulo 2^20 (R73, R103). -/
def busReadWord (a : Addr) (s : State) : Word × State :=
  let lo := busRead a s
  let hi := busRead (a + 1) lo.2
  (hi.1 ++ lo.1, hi.2)

/-- `MemRead(a, 1)` (R74). -/
def readByte (a : Addr) (s : State) : Byte × State := recordRead a 1 (busRead a s)

/-- `MemRead(a, 2)`, little-endian (R73, R74). -/
def readWord (a : Addr) (s : State) : Word × State := recordRead a 2 (busReadWord a s)

/-- `MemRead(a, 3)` (R74). -/
def read24 (a : Addr) (s : State) : BitVec 24 × State :=
  let lo := busReadWord a s
  let hi := busRead (a + 2) lo.2
  recordRead a 3 (hi.1 ++ lo.1, hi.2)

/-- `MemRead(a, 4)` (R74). -/
def read32 (a : Addr) (s : State) : BitVec 32 × State :=
  let lo := busReadWord a s
  let hi := busReadWord (a + 2) lo.2
  recordRead a 4 (hi.1 ++ lo.1, hi.2)

/-- Whether a store is a `MOV`'s; only `MOV` is sure to clear IR (R616). -/
inductive StoreKind | mov | other
  deriving DecidableEq, Repr

/-- What a store does to a source whose interrupt control register is stored to: level and IR as written (R555), IR
kept set where `keep` is drawn and the store is no `MOV`'s (R616), and the old values visible for a while
(R613, R615). -/
def storeIcr (a : Addr) (v : Byte) (keep : Bool) (window : Nat) (x : Source) : Source :=
  if x.icr = a then
    { x with ilvl := v.extractLsb' 0 3, ir := v.getLsbD 3 || (x.ir && keep)
             old := { level := x.ilvl, ir := x.ir, left := window + 1 } :: x.old }
  else x

/-- The bytes the instruction queue may hold of the bytes that follow `pc`: the longest instruction and the four bytes
after it (R55, R128). -/
def State.inQueue (s : State) (a : Addr) : Bool := decide ((a - s.pc).toNat < 12)

/-- The state after a byte is stored where a byte can be stored (R75). -/
def stored (k : StoreKind) (a : Addr) (v : Byte) (s : State) : State :=
  { s with
    mem := memSet s.mem a.toNat v
    sources := s.sources.map
      (storeIcr a v (k == .other && Config.freeBit s.draws) s.product.storeWindow)
    queue := (if s.inQueue a then (a.toNat, s.peek a) :: s.queue else s.queue)
    draws := (if k == .other && (icrAt s.sources a).isSome then s.draws + 1 else s.draws) }

/-- One byte written; a store to ROM or to the hole stops the run (D12). -/
def busWrite (k : StoreKind) (a : Addr) (v : Byte) (s : State) : Result :=
  if s.isRom a then .fault (.romWrite a)
  else if s.isHole a then .fault (.unmappedWrite a)
  else .next (stored k a v s)

/-- A completed write of `n` bytes enters the trace with its value. -/
def recordWrite {w : Nat} (a : Addr) (n : Nat) (v : BitVec w) (r : Result) : Result :=
  andThen r fun t => .next (t.record .write a n (v.setWidth 32))

/-- Two bytes written, the second at `a + 1` modulo 2^20. -/
def busWriteWord (k : StoreKind) (a : Addr) (v : Word) (s : State) : Result :=
  andThen (busWrite k a (loByte v) s) (busWrite k (a + 1) (hiByte v))

/-- `MemWrite(a, 1, v)` (R75). -/
def writeByte (k : StoreKind) (a : Addr) (v : Byte) (s : State) : Result := recordWrite a 1 v (busWrite k a v s)

/-- `MemWrite(a, 2, v)` (R75). -/
def writeWord (k : StoreKind) (a : Addr) (v : Word) (s : State) : Result :=
  recordWrite a 2 v (busWriteWord k a v s)

/-- `MemWrite(a, 3, v)` (R75). -/
def write24 (k : StoreKind) (a : Addr) (v : BitVec 24) (s : State) : Result :=
  recordWrite a 3 v (andThen (busWriteWord k a (v.extractLsb' 0 16) s) (busWrite k (a + 2) (v.extractLsb' 16 8)))

/-- `MemWrite(a, 4, v)` (R75). -/
def write32 (k : StoreKind) (a : Addr) (v : BitVec 32) (s : State) : Result :=
  recordWrite a 4 v
    (andThen (busWriteWord k a (v.extractLsb' 0 16) s) (busWriteWord k (a + 2) (v.extractLsb' 16 16)))

/-! Sizes. -/

/-- Bits of a size (R12). -/
abbrev Size.bits : Size → Nat
  | .b => 8
  | .w => 16

/-- Bytes of a size. -/
def sizeBytes : Size → Nat
  | .b => 1
  | .w => 2

/-- `MemRead(a, W/8)`. -/
def readMem : (z : Size) → Addr → State → BitVec (Size.bits z) × State
  | .b => readByte
  | .w => readWord

/-- `MemWrite(a, W/8, v)`. -/
def writeMem (k : StoreKind) : (z : Size) → Addr → BitVec (Size.bits z) → State → Result
  | .b => writeByte k
  | .w => writeWord k

/-- A 16-bit effective address as an address of the 1 Mbyte space (R90). -/
def near (v : Word) : Addr := v.setWidth 20

/-! The stack (R104). -/

/-- `Push8`. -/
def push8 (v : Byte) (s : State) : Result :=
  writeByte .other (near (s.sp - 1)) v (s.setSp (s.sp - 1))

/-- `Push16`. -/
def push16 (v : Word) (s : State) : Result :=
  writeWord .other (near (s.sp - 2)) v (s.setSp (s.sp - 2))

/-- `Pop8`. -/
def pop8 (s : State) : Byte × State :=
  let r := readByte (near s.sp) s
  (r.1, r.2.setSp (s.sp + 1))

/-- `Pop16`. -/
def pop16 (s : State) : Word × State :=
  let r := readWord (near s.sp) s
  (r.1, r.2.setSp (s.sp + 2))

/-- `PushRet`: the high 4 bits of a return address as a byte, then its low 16 bits (R451, D25). -/
def pushRet (ret : Addr) (s : State) : Result :=
  andThen (push8 (0#4 ++ ret.extractLsb' 16 4) s) (push16 (ret.extractLsb' 0 16))

/-! The program counter and the instruction queue. -/

/-- The address after an instruction of `len` bytes (R32). -/
def State.next (s : State) (len : Nat) : Addr := s.pc + BitVec.ofNat 20 len

/-- The queue entries that still lie ahead of `next`: the four bytes from it on (R128). -/
def ahead (next : Addr) (q : List Host.Cell) : List Host.Cell :=
  q.filter (fun c => decide ((BitVec.ofNat 20 c.1 - next).toNat < 4))

/-- `pc <- next` (R32). -/
def State.advance (s : State) (len : Nat) : State :=
  { s with pc := s.next len, queue := ahead (s.next len) s.queue }

/-- `pc <- target`; a taken jump discards the queue (R128). -/
def State.jump (s : State) (target : Addr) : State := { s with pc := target, queue := [] }

/-- An interruptible instruction between two iterations: `pc` stays (R480). -/
def State.stay (s : State) (len : Nat) : State := { s with queue := ahead (s.next len) s.queue }

/-- A PC-relative target (R440). -/
def State.relative (s : State) (base : Nat) {w : Nat} (disp : BitVec w) : Addr :=
  s.pc + BitVec.ofNat 20 base + disp.signExtend 20

/-- Runs the body of an instruction if its term stands for an encoding the spec assigns, and refuses it otherwise
(R171, D19, D20). -/
def guarded (i : Instr) (body : State → Result) (s : State) : Result :=
  if i.wellFormed then body s else .refused .reservedEncoding

/-- An instruction that ends with `pc <- next` (R32). -/
def sequential (i : Instr) (body : State → Result) : State → Result :=
  guarded i (fun s => andThen (body s) (fun t => .next (t.advance i.length)))

/-! Taking an interrupt and returning from one. -/

/-- FLG as the interrupt sequence leaves it before the level is set: I and D cleared, and U where the source clears it
(R560 step 3). -/
def seqFlags (clearU : Bool) (f : Flg) : Flg :=
  { f with i := false, d := false, u := (if clearU then false else f.u) }

/-- The second word of the frame: FLG bits 15 to 12, the address's bits 19 to 16, FLG bits 7 to 0 (R560, R562). -/
def frameWord (f : Flg) (ret : Addr) : Word :=
  f.toWord.extractLsb' 12 4 ++ ret.extractLsb' 16 4 ++ f.toWord.extractLsb' 0 8

/-- FLG with a new processor interrupt priority level. -/
def Flg.setIpl (f : Flg) (l : BitVec 3) : Flg := { f with ipl := l }

/-- The level the sequence sets, if it sets one (R560 step 6). -/
def seqLevel (level : Option (BitVec 3)) (f : Flg) : Flg :=
  match level with
  | some l => f.setIpl l
  | none => f

/-- `IntSeq`, the interrupt response sequence of every source (R560). -/
def intSeq (vec ret : Addr) (clearU : Bool) (level : Option (BitVec 3)) (s : State) : Result :=
  andThen (push16 (frameWord s.flg ret) (s.setFlg (seqFlags clearU s.flg))) fun s1 =>
  andThen (push16 (ret.extractLsb' 0 16) s1) fun s2 =>
    let s3 := { s2.setFlg (seqLevel level s2.flg) with waiting := false }
    let v := read32 vec s3
    .next (v.2.jump (v.1.extractLsb' 0 20))

/-- The variable vector of a software interrupt number (R87). -/
def State.variableVector (s : State) {w : Nat} (num : BitVec w) : Addr := s.intb + ((num.setWidth 20 : Addr) <<< 2)

/-- An IPL change opens the window in which the old level may still be judged (R613); `n` boundaries, and the
instruction's own completion counts one down. -/
def State.openIpl (s : State) (n : Nat) : State := { s with iplOld := (s.flg.ipl, n + 1) :: s.iplOld }

/-- The return from an interrupt: both words popped from the stack pointer selected at the start, then `pc` and the
whole of FLG (R524). -/
def returnFromInterrupt (s : State) : Result :=
  let s0 := s.openIpl Config.iplWindowReit
  let lo := pop16 s0
  let hi := pop16 lo.2
  .next ((hi.2.jump (hi.1.extractLsb' 8 4 ++ lo.1)).setFlg
    (Flg.ofWord (hi.1.extractLsb' 12 4 ++ 0#4 ++ hi.1.extractLsb' 0 8)))

end Sys2Proof.Machine
end

