-- ==== Sys2Proof/Machine/Interrupts.lean ====
section
/-! DEFINITION. Hardware interrupts: the acceptance test, the choice among requests, acceptance, and reset
(spec/60_exceptions.md R545 to R570, spec/70_reset_and_hazards.md R601, R613). -/

namespace Sys2Proof.Machine

/-- A hardware interrupt source; a peripheral by its position in `HW_PRIORITY` order (R541). -/
inductive HwSource
  | nmi
  | dbc
  | watchdog
  | peripheral (k : Nat)
  | step
  | addressMatch
  deriving DecidableEq, Repr

/-- `I_judge`: the I flag as the acceptance test sees it (R559). While waiting and between iterations it is the
current flag. -/
def State.judgeI (s : State) : Bool :=
  if s.waiting || s.resume.isSome then s.flg.i else s.prevI.getD s.flg.i

/-- `IPL_judge`: the current level, or one of the earlier levels whose window is open, by free choice (R613, D34). -/
def judgeIpl : List (BitVec 3 × Nat) → BitVec 3 → Nat → BitVec 3 × Nat
  | [], cur, n => (cur, n)
  | (old, left) :: rest, cur, n =>
    if left = 0 then judgeIpl rest cur n
    else judgeIpl rest (if Config.freeBit n then old else cur) (n + 1)

/-- Request bit and level of one source as the acceptance test sees them: the current ones, or earlier ones whose
window is open, by free choice (R613, R615, D34). -/
def judgeSource : List Window → Bool × BitVec 3 → Nat → (Bool × BitVec 3) × Nat
  | [], cur, n => (cur, n)
  | w :: rest, cur, n =>
    if w.left = 0 then judgeSource rest cur n
    else judgeSource rest
      (if Config.freeBit n then w.ir else cur.1, if Config.freeBit (n + 1) then w.level else cur.2) (n + 2)

/-- Every source as judged, in order. -/
def judgeAll : List Source → Nat → List (Bool × BitVec 3) × Nat
  | [], n => ([], n)
  | x :: rest, n =>
    let p := judgeSource x.old (x.ir, x.ilvl) n
    let q := judgeAll rest p.2
    (p.1 :: q.1, q.2)

/-- An enabled address-match register holds the address of the instruction about to start (R550). -/
def State.addressMatches (s : State) : Bool :=
  s.product.addressMatch && !s.waiting && s.resume.isNone &&
    s.matchRegs.any (fun m => m.enabled && m.addr == s.pc)

/-- An address-match request is pending: one that arises here, or an earlier one that was not accepted where it arose,
because the boundary was shadowed or another request won (R550, R554, R556, R570). -/
def State.matchPending (s : State) : Bool := s.product.addressMatch && (s.matchReq || s.addressMatches)

/-- The acceptance test of the peripheral sources (R553) and the choice among them (R570), with the draws used. -/
def choosePeripheral (s : State) : Option Nat × Nat :=
  let ipl := judgeIpl s.iplOld s.flg.ipl s.draws
  let seen := judgeAll s.sources ipl.2
  let best := bestOf 0
    (seen.1.map fun p => (s.judgeI && p.1 && decide (ipl.1.toNat < p.2.toNat), p.2))
  (best.map Prod.fst, seen.2)

/-- The hardware interrupt accepted at an examination point, if any, in the order of R570, with the draws used. -/
def chooseHw (s : State) : Option HwSource × Nat :=
  let per := choosePeripheral s
  (if s.nmiReq then some .nmi
   else if s.dbcReq && s.product.dbc then some .dbc
   else if s.wdtReq then some .watchdog
   else match per.1 with
     | some k => some (.peripheral k)
     | none =>
       if s.stepReq then some .step
       else if s.matchPending then some .addressMatch
       else none,
   per.2)

/-- One instruction or interrupt sequence has completed: the windows of R613 come one boundary nearer their end. -/
def tickIpl (l : List (BitVec 3 × Nat)) : List (BitVec 3 × Nat) :=
  l.filterMap fun w => if w.2 ≤ 1 then none else some (w.1, w.2 - 1)

/-- The same for the windows of a source. -/
def tickSource (x : Source) : Source :=
  { x with old := x.old.filterMap fun w => if w.left ≤ 1 then none else some { w with left := w.left - 1 } }

/-- The windows that were last open at the boundary just passed end where the next instruction starts, so that they are
not judged between its iterations (R615). -/
def lapseSource (x : Source) : Source := { x with old := x.old.filter fun w => decide (1 < w.left) }

/-- Counts a completed instruction or interrupt sequence (R613). -/
def State.tick (s : State) : State :=
  { s with iplOld := tickIpl s.iplOld, sources := s.sources.map tickSource }

/-- `AcceptHW`: the request is consumed and the interrupt sequence runs with the address of the next instruction
(R561, R563); an accepted interrupt ends a wait and suspends an instruction in progress (R480, R537). A peripheral
interrupt accepted on an earlier level inside a window of R613 takes the present level all the same: DEDUCED, log 52. -/
def acceptHw (src : HwSource) (s0 : State) : Result :=
  let s := { s0 with waiting := false, resume := none, prevI := none }
  andThen
    (match src with
     | .nmi => intSeq Config.nmiVector s.pc true (some 7#3) { s with nmiReq := false }
     | .dbc => intSeq Config.dbcVector s.pc true none { s with dbcReq := false }
     | .watchdog => intSeq Config.watchdogVector s.pc true (some 7#3) { s with wdtReq := false }
     | .peripheral k =>
       match s.sources[k]? with
       | some x =>
         intSeq (s.variableVector x.num) s.pc true (some x.ilvl)
           { s with sources := clearIrAt k s.sources }
       | none => .next s
     | .step => intSeq Config.stepVector s.pc true none { s with stepReq := false }
     | .addressMatch =>
       intSeq Config.matchVector (Config.freeVal 20 s.draws) true none
         { s with draws := s.draws + 1, matchReq := false })
    fun t => .next t.tick

/-- Request bits and levels after reset are the environment's: drawn freely (R601, D2). -/
def anySources : List Source → Nat → List Source
  | [], _ => []
  | x :: rest, n =>
    { x with ir := Config.freeBit n, ilvl := Config.freeVal 3 n, old := [] } :: anySources rest (n + 1)

/-- The address-match registers after reset are the environment's: drawn freely (R601, R550). -/
def anyMatchRegs : List MatchReg → Nat → List MatchReg
  | [], _ => []
  | _ :: rest, n =>
    { addr := Config.freeVal 20 n, enabled := Config.freeBit n } :: anyMatchRegs rest (n + 1)

/-- A bank drawn freely (R601, D1). -/
def anyBank (n : Nat) : Bank :=
  { r0 := Config.freeVal 16 n, r1 := Config.freeVal 16 (n + 1), r2 := Config.freeVal 16 (n + 2)
    r3 := Config.freeVal 16 (n + 3), a0 := Config.freeVal 16 (n + 4), a1 := Config.freeVal 16 (n + 5)
    fb := Config.freeVal 16 (n + 6) }

/-- Memory after a reset: ROM as it was, RAM and the SFR area drawn freely (R601, D2). -/
def resetMemory (s : State) : List Host.Cell :=
  memFill s.product.ramTop.toNat s.mem (Config.freeCells s.draws)

/-- The reset of the RESET pin, which saves nothing (R545, R601). DESIGN CHOICE (log 53): the single-step and
address-match requests, which R601 does not list, are cleared, and the trace of the SFR area starts anew with the run. -/
def hardReset (s : State) : State :=
  { bank0 := Bank.zero, bank1 := anyBank s.draws, sb := 0, usp := 0, isp := 0, intb := 0
    pc := memVector (resetMemory s) Config.resetVector, flg := Flg.zero, mem := resetMemory s
    intShadow := true, waiting := false, prevI := none, iplOld := [], resume := none, queue := []
    sources := anySources s.sources (s.draws + 10)
    nmiReq := Config.freeBit s.draws, wdtReq := Config.freeBit (s.draws + 1)
    dbcReq := Config.freeBit (s.draws + 2), stepReq := false, resetReq := false
    matchRegs := anyMatchRegs s.matchRegs (s.draws + 10 + s.sources.length), matchReq := false, sfrTrace := []
    product := s.product
    draws := s.draws + 10 + s.sources.length + s.matchRegs.length }

end Sys2Proof.Machine
end

