-- ==== Sys2Proof/Machine/Boundary.lean ====
section
/-! DEFINITION. The two ends of an instruction: the fetch of its bytes and what its completion does
(spec/20_memory.md R76, R128, spec/60_exceptions.md R549, R558, spec/47_string.md R480). -/

namespace Sys2Proof.Machine

/-- A byte the queue may still hold from before a store: old or new by free choice (R128, D18). -/
def fromQueue (a : Addr) : List Host.Cell → Byte → Nat → Byte × Nat
  | [], v, n => (v, n)
  | (k, old) :: rest, v, n =>
    if k = a.toNat then fromQueue a rest (if Config.freeBit n then old else v) (n + 1) else fromQueue a rest v n

/-- One byte of the instruction stream and the draws used; in the hole the byte is free (D12). -/
def fetchByte (a : Addr) (s : State) (n : Nat) : Byte × Nat :=
  if s.isHole a then (Config.freeVal 8 n, n + 1) else fromQueue a s.queue (s.peek a) n

/-- `k` bytes at ascending addresses modulo 2^20 (R76, D5). -/
def fetchBytes (s : State) : Nat → Addr → Nat → List Byte × Nat
  | 0, _, n => ([], n)
  | k + 1, a, n =>
    let b := fetchByte a s n
    let rest := fetchBytes s k (a + 1) b.2
    (b.1 :: rest.1, rest.2)

/-- The bytes a decoder may need at `pc`: the longest instruction has 7, the macro `LDINTB` 8 (R147). -/
def fetch (s : State) : List Byte × Nat := fetchBytes s 8 s.pc s.draws

/-- Why the decoder gives no instruction, as a refusal (D19). -/
def refusalOf : DecodeError → Refusal
  | .unassigned => .unassignedEncoding
  | .reserved => .reservedEncoding
  | .truncated => .reservedEncoding

/-- The four instructions that can be suspended between iterations (R480). -/
def interruptible : Instr → Bool
  | .smovf _ => true
  | .smovb _ => true
  | .sstr _ => true
  | .rmpa _ => true
  | _ => false

/-- The state in which an instruction runs: the flag of R559 counts at one boundary only, nothing is in progress, and
where a new instruction starts the windows of R615 that have had their last boundary end. -/
def State.started (s : State) : State :=
  { s with
    resume := none, prevI := none
    sources := (if s.resume.isNone then s.sources.map lapseSource else s.sources) }

/-- What the end of an instruction adds to its own effect: an interruptible instruction that has not moved on is in
progress (R480); any other has completed, so the windows of R613 count it and an instruction started with D = 1
requests a single step (R549, D28). -/
def completed (i : Instr) (before t : State) : State :=
  if interruptible i && t.pc == before.pc then { t with resume := some i }
  else { t.tick with stepReq := t.stepReq || before.flg.d }

end Sys2Proof.Machine
end

