-- ==== Sys2Proof/Machine/Operands.lean ====
section
/-! DEFINITION. Effective addresses, operand locations with their reads and writes, bit operands, control registers,
and the shapes the instruction families share (spec/20_memory.md R90 to R117, spec/48_other.md R491). -/

namespace Sys2Proof.Machine

/-- The 16-bit effective address of a memory mode (R92 to R96). -/
def State.ea (s : State) : Ea → Word
  | .ind a => s.areg a
  | .rel8 a d => s.areg a + d.setWidth 16
  | .sb8 d => s.sb + d.setWidth 16
  | .fb8 d => s.bank.fb + d.signExtend 16
  | .rel16 a d => s.areg a + d
  | .sb16 d => s.sb + d
  | .abs16 d => d

/-- The effective address of `dsp:8[SP]` (R97). -/
def State.spEa (s : State) (d : BitVec 8) : Word := s.sp + d.signExtend 16

/-- The effective address of a short memory mode (R152, R153). -/
def State.shortEa (s : State) : ShortMem → Word
  | .sb8 d => s.sb + d.setWidth 16
  | .fb8 d => s.bank.fb + d.signExtend 16
  | .abs16 d => d

/-- The 20-bit address of an indirect jump's memory mode (R448). -/
def State.jmpEa (s : State) : JmpEa → Addr
  | .ind a => near (s.areg a)
  | .rel8 a d => near (s.areg a + d.setWidth 16)
  | .sb8 d => near (s.sb + d.setWidth 16)
  | .fb8 d => near (s.bank.fb + d.signExtend 16)
  | .rel20 a d => near (s.areg a) + d
  | .sb16 d => near (s.sb + d)
  | .abs16 d => near d

/-- `dsp:20[A0]` (R98). -/
def State.farDsp (s : State) (d : BitVec 20) : Addr := near s.bank.a0 + d

/-- `[A1A0]`: bits 31 to 20 of the pair are ignored (R98). -/
def State.farPair (s : State) : Addr := (s.bank.a1 ++ s.bank.a0).extractLsb' 0 20

/-- Where an operand stands once its address is computed (R101). -/
inductive Loc
  | data (r : DReg)
  | addr (a : AReg)
  | mem (a : Addr)
  deriving DecidableEq, Repr

/-- The location of a general operand. -/
def State.loc (s : State) : Operand → Loc
  | .data r => .data r
  | .addr a => .addr a
  | .mem e => .mem (near (s.ea e))

/-- The location of a short destination. -/
def State.shortLoc (s : State) : ShortDest → Loc
  | .half h => .data (halfDreg h)
  | .mem m => .mem (near (s.shortEa m))

/-- The location of a short source, whose register is the half that is not the destination (R153). -/
def State.shortSrcLoc (s : State) (dst : Half) : ShortSrc → Loc
  | .other => .data (halfDreg (halfFlip dst))
  | .mem m => .mem (near (s.shortEa m))

/-- The location of the source of `MOV.B:S src,A0/A1`: R0H goes with A0 and R0L with A1 (R207). -/
def State.shortSrcAnLoc (s : State) (dst : AReg) : ShortSrc → Loc
  | .other => .data (match dst with
    | .a0 => .d1
    | .a1 => .d0)
  | .mem m => .mem (near (s.shortEa m))

/-- `Read` (R100). -/
def readLoc : (z : Size) → Loc → State → BitVec (Size.bits z) × State
  | .b, .data r, s => (s.dreg8 r, s)
  | .w, .data r, s => (s.dreg16 r, s)
  | .b, .addr a, s => (loByte (s.areg a), s)
  | .w, .addr a, s => (s.areg a, s)
  | z, .mem a, s => readMem z a s

/-- `Write` (R101); `.B` to an address register zero-extends. -/
def writeLoc (k : StoreKind) : (z : Size) → Loc → BitVec (Size.bits z) → State → Result
  | .b, .data r, v, s => .next (s.setDreg8 r v)
  | .w, .data r, v, s => .next (s.setDreg16 r v)
  | .b, .addr a, v, s => .next (s.setAreg a (v.setWidth 16))
  | .w, .addr a, v, s => .next (s.setAreg a v)
  | z, .mem a, v, s => writeMem k z a v s

/-- The value of a generic immediate at its own size (R155). -/
def immVal : (v : Imm) → BitVec (Size.bits v.size)
  | .b v => v
  | .w v => v

/-- The value of a quick immediate: `sext_W(signed_4(IMM4))` (R154). -/
def quickVal (z : Size) (v : BitVec 4) : BitVec (Size.bits z) := v.signExtend _

/-- A two-operand operation on a location with a source already read: with `.B` and an address register the source is
zero-extended and the operation is 16 bits wide (R102, R330). -/
def aluTo (op : AluOp) (z : Size) (src : BitVec (Size.bits z)) (l : Loc) (s : State) : Result :=
  match z, l, src with
  | .b, .addr a, src =>
    let r := op 16 (s.areg a) (src.setWidth 16) s.flg
    .next ((s.setFlg r.2).setAreg a r.1)
  | z, l, src =>
    let d := readLoc z l s
    let r := op (Size.bits z) d.1 src d.2.flg
    writeLoc .other z l r.1 (d.2.setFlg r.2)

/-- The same where only the flags change: `CMP` and `TST` (R342, R431). -/
def aluTest (op : AluOp) (z : Size) (src : BitVec (Size.bits z)) (l : Loc) (s : State) : Result :=
  match z, l, src with
  | .b, .addr a, src => .next (s.setFlg (op 16 (s.areg a) (src.setWidth 16) s.flg).2)
  | z, l, src =>
    let d := readLoc z l s
    .next (d.2.setFlg (op (Size.bits z) d.1 src d.2.flg).2)

/-- A one-operand operation: one read, then one write (R330 item 2). -/
def unaryTo (op : UnaryOp) (z : Size) (l : Loc) (s : State) : Result :=
  let d := readLoc z l s
  let r := op (Size.bits z) d.1 d.2.flg
  writeLoc .other z l r.1 (d.2.setFlg r.2)

/-- The end of a transfer: the value written and S and Z from it; `.B` to an address register is 16 bits wide
(R201, R234). -/
def moveTo (k : StoreKind) (z : Size) (v : BitVec (Size.bits z)) (l : Loc) (s : State) : Result :=
  match z, l, v with
  | .b, .addr a, v => .next ((s.setFlg (setSZ (v.setWidth 16 : Word) s.flg)).setAreg a (v.setWidth 16))
  | z, l, v => writeLoc k z l v (s.setFlg (setSZ v s.flg))

/-- The end of a `MOV` (R201). -/
def movTo (z : Size) (v : BitVec (Size.bits z)) (l : Loc) (s : State) : Result := moveTo .mov z v l s

/-- Reads a source operand, then goes on with its value; the destination's location is fixed before (D8). -/
def withSrc (z : Size) (src dst : Loc) (f : BitVec (Size.bits z) → Loc → State → Result) (s : State) : Result :=
  let v := readLoc z src s
  f v.1 dst v.2

/-! Bit operands (R110 to R117). -/

/-- Where a bit operand stands. -/
inductive BitLoc
  | reg (r : Reg16) (n : Nat)
  | mem (a : Addr) (n : Nat)
  deriving DecidableEq, Repr

/-- The bit `k` positions from bit 0 of the byte at `base` (R111 to R114). -/
def bitAt (base : Word) {w : Nat} (k : BitVec w) : BitLoc :=
  .mem (near (base + (k >>> 3).setWidth 16)) (k.extractLsb' 0 3).toNat

/-- The location of a bit operand (R110 to R115). -/
def State.bitLoc (s : State) : BitOp → BitLoc
  | .reg r n => .reg r n.toNat
  | .ind a => bitAt 0#16 (s.areg a)
  | .rel8 a base => bitAt (base.setWidth 16) (s.areg a)
  | .sb8 k => bitAt s.sb k
  | .fb8 k => .mem (near (s.bank.fb + (k.signExtend 16).sshiftRight 3)) (k.extractLsb' 0 3).toNat
  | .rel16 a base => bitAt base (s.areg a)
  | .sb16 k => bitAt s.sb k
  | .abs16 k => bitAt 0#16 k

/-- The bit of `bit,base:11[SB]` (R114). -/
def State.shortBit (s : State) (n : BitVec 3) (d : BitVec 8) : BitLoc :=
  .mem (near (s.sb + d.setWidth 16)) n.toNat

/-- A value with one bit replaced (R117). -/
def setBit {w : Nat} (v : BitVec w) (n : Nat) (b : Bool) : BitVec w :=
  if b then v ||| BitVec.twoPow w n else v &&& ~~~(BitVec.twoPow w n)

/-- `BitRead` followed by a change of flags only. -/
def bitTest (l : BitLoc) (f : Bool → Flg → Flg) (s : State) : Result :=
  match l with
  | .reg r n => .next (s.setFlg (f ((s.reg16 r).getLsbD n) s.flg))
  | .mem a n =>
    let t := readByte a s
    .next (t.2.setFlg (f (t.1.getLsbD n) t.2.flg))

/-- A bit-modifying instruction: one read, the new bit from the old one, the flags, one write (R81, R117). -/
def bitModify (l : BitLoc) (new : Bool → Bool) (f : Bool → Flg → Flg) (s : State) : Result :=
  match l with
  | .reg r n =>
    let b := (s.reg16 r).getLsbD n
    .next ((s.setFlg (f b s.flg)).setReg16 r (setBit (s.reg16 r) n (new b)))
  | .mem a n =>
    let t := readByte a s
    let b := t.1.getLsbD n
    writeByte .other a (setBit t.1 n (new b)) (t.2.setFlg (f b t.2.flg))

/-! Control registers (R491). -/

/-- `ReadCR`. -/
def State.creg (s : State) : CReg → Word
  | .intbl => s.intb.extractLsb' 0 16
  | .intbh => (s.intb.extractLsb' 16 4).setWidth 16
  | .flg => s.flg.toWord
  | .isp => s.isp
  | .sp => s.sp
  | .sb => s.sb
  | .fb => s.bank.fb

/-- `WriteCR`. -/
def State.setCreg (s : State) (c : CReg) (v : Word) : State :=
  match c with
  | .intbl => { s with intb := s.intb.extractLsb' 16 4 ++ v }
  | .intbh => { s with intb := v.extractLsb' 0 4 ++ s.intb.extractLsb' 0 16 }
  | .flg => s.setFlg (Flg.ofWord v)
  | .isp => { s with isp := v }
  | .sp => s.setSp v
  | .sb => { s with sb := v }
  | .fb => s.setFb v

/-- `POPC` that turns I on ends the windows of the interrupt control registers, so that the third sample program of R615
is never affected (DEDUCED, log 20). -/
def afterPopc (before s : State) : State :=
  if !before.flg.i && s.flg.i then { s with sources := s.sources.map fun x => { x with old := [] } } else s

/-- What `LDC` and `POPC` add to their transfer: the boundary after them is shadowed, the I flag counts from the next
instruction, and a new IPL counts some clocks later (R512, R558, R559, R613). -/
def afterCreg (before : State) (c : CReg) (s : State) : State :=
  { s with intShadow := true, prevI := some before.flg.i
           iplOld := (if c = .flg then (before.flg.ipl, Config.iplWindow + 1) :: s.iplOld else s.iplOld) }

end Sys2Proof.Machine
end

