-- ==== Sys2Proof/Machine/Arithmetic.lean ====
section
/-! DEFINITION. Add, subtract, compare, increment, negate, absolute value and sign extension
(spec/43_arithmetic.md). -/

namespace Sys2Proof.Machine

/-- The immediate of `ADD.size:G #IMM,SP` at 16 bits; `#IMM8` is sign-extended (R340, D23). -/
def spImm : Imm → Word
  | .b v => v.signExtend 16
  | .w v => v

/-- A 16-bit addition to the selected stack pointer (R340, R341). -/
def addToSp (v : Word) (s : State) : State :=
  let r := addFlags s.sp v false s.flg
  (s.setFlg r.2).setSp r.1

/-- `ABS.size dest`; C is drawn freely (R331, I6). -/
def execAbs (sz : Size) (dst : Operand) : State → Result :=
  sequential (.abs sz dst) fun s =>
    let c := drawBit s
    unaryTo (unAbs c.1) sz (s.loc dst) c.2

/-- `ADC.size #IMM,dest` (R332). -/
def execAdcImm (v : Imm) (dst : Operand) : State → Result :=
  sequential (.adcImm v dst) fun s =>
    aluTo aluAdc v.size (immVal v) (s.loc dst) s

/-- `ADC.size src,dest` (R333). -/
def execAdcSrc (sz : Size) (src dst : Operand) : State → Result :=
  sequential (.adcSrc sz src dst) fun s =>
    withSrc sz (s.loc src) (s.loc dst) (aluTo aluAdc sz) s

/-- `ADCF.size dest` (R334). -/
def execAdcf (sz : Size) (dst : Operand) : State → Result :=
  sequential (.adcf sz dst) fun s => unaryTo unAdcf sz (s.loc dst) s

/-- `ADD.size:G #IMM,dest` (R335). -/
def execAddGImm (v : Imm) (dst : Operand) : State → Result :=
  sequential (.addGImm v dst) fun s =>
    aluTo aluAdd v.size (immVal v) (s.loc dst) s

/-- `ADD.size:Q #IMM,dest` (R336). -/
def execAddQ (sz : Size) (v : BitVec 4) (dst : Operand) : State → Result :=
  sequential (.addQ sz v dst) fun s =>
    aluTo aluAdd sz (quickVal sz v) (s.loc dst) s

/-- `ADD.B:S #IMM8,dest` (R337). -/
def execAddBSImm (v : BitVec 8) (dst : ShortDest) : State → Result :=
  sequential (.addBSImm v dst) fun s => aluTo aluAdd .b v (s.shortLoc dst) s

/-- `ADD.size:G src,dest` (R338). -/
def execAddGSrc (sz : Size) (src dst : Operand) : State → Result :=
  sequential (.addGSrc sz src dst) fun s =>
    withSrc sz (s.loc src) (s.loc dst) (aluTo aluAdd sz) s

/-- `ADD.B:S src,R0L/R0H` (R339). -/
def execAddBSSrc (h : Half) (src : ShortSrc) : State → Result :=
  sequential (.addBSSrc h src) fun s =>
    withSrc .b (s.shortSrcLoc h src) (.data (halfDreg h)) (aluTo aluAdd .b) s

/-- `ADD.size:G #IMM,SP` (R340). -/
def execAddGSp (v : Imm) : State → Result :=
  sequential (.addGSp v) fun s => .next (addToSp (spImm v) s)

/-- `ADD.size:Q #IMM,SP` (R341). -/
def execAddQSp (v : BitVec 4) : State → Result :=
  sequential (.addQSp v) fun s => .next (addToSp (v.signExtend 16) s)

/-- `CMP.size:G #IMM,dest` (R342). -/
def execCmpGImm (v : Imm) (dst : Operand) : State → Result :=
  sequential (.cmpGImm v dst) fun s =>
    aluTest aluSub v.size (immVal v) (s.loc dst) s

/-- `CMP.size:Q #IMM,dest` (R343). -/
def execCmpQ (sz : Size) (v : BitVec 4) (dst : Operand) : State → Result :=
  sequential (.cmpQ sz v dst) fun s =>
    aluTest aluSub sz (quickVal sz v) (s.loc dst) s

/-- `CMP.B:S #IMM8,dest` (R344). -/
def execCmpBSImm (v : BitVec 8) (dst : ShortDest) : State → Result :=
  sequential (.cmpBSImm v dst) fun s => aluTest aluSub .b v (s.shortLoc dst) s

/-- `CMP.size:G src,dest` (R345). -/
def execCmpGSrc (sz : Size) (src dst : Operand) : State → Result :=
  sequential (.cmpGSrc sz src dst) fun s =>
    withSrc sz (s.loc src) (s.loc dst) (aluTest aluSub sz) s

/-- `CMP.B:S src,R0L/R0H` (R346). -/
def execCmpBSSrc (h : Half) (src : ShortSrc) : State → Result :=
  sequential (.cmpBSSrc h src) fun s =>
    withSrc .b (s.shortSrcLoc h src) (.data (halfDreg h)) (aluTest aluSub .b) s

/-- `DEC.B dest` (R347). -/
def execDecB (dst : ShortDest) : State → Result :=
  sequential (.decB dst) fun s => unaryTo unDec .b (s.shortLoc dst) s

/-- `DEC.W dest` (R348). -/
def execDecW (a : AReg) : State → Result :=
  sequential (.decW a) (unaryTo unDec .w (.addr a))

/-- `INC.B dest` (R351). -/
def execIncB (dst : ShortDest) : State → Result :=
  sequential (.incB dst) fun s => unaryTo unInc .b (s.shortLoc dst) s

/-- `INC.W dest` (R352). -/
def execIncW (a : AReg) : State → Result :=
  sequential (.incW a) (unaryTo unInc .w (.addr a))

/-- The sign-extended byte of `EXTS.B` and where its 16 bits go: R0, R1, or two bytes of memory (R349). -/
def extsTo (l : Loc) (s : State) : Result :=
  let d := readLoc .b l s
  let r : Word := d.1.signExtend 16
  let t := d.2.setFlg (setSZ r d.2.flg)
  match l with
  | .data .d2 => .next (t.setDreg16 .d1 r)
  | .data _ => .next (t.setDreg16 .d0 r)
  | .addr a => .next (t.setAreg a r)
  | .mem a => writeWord .other a r t

/-- `EXTS.B dest` (R349). -/
def execExtsB (dst : Operand) : State → Result :=
  sequential (.extsB dst) fun s => extsTo (s.loc dst) s

/-- `EXTS.W R0`: R2 takes the sign of R0, no flag changes (R350). -/
def execExtsW : State → Result :=
  sequential .extsW fun s =>
    .next (s.setDreg16 .d2 (if s.bank.r0.msb then 0xFFFF#16 else 0x0000#16))

/-- `NEG.size dest` (R353). -/
def execNeg (sz : Size) (dst : Operand) : State → Result :=
  sequential (.neg sz dst) fun s => unaryTo unNeg sz (s.loc dst) s

/-- `SBB.size #IMM,dest` (R354). -/
def execSbbImm (v : Imm) (dst : Operand) : State → Result :=
  sequential (.sbbImm v dst) fun s =>
    aluTo aluSbb v.size (immVal v) (s.loc dst) s

/-- `SBB.size src,dest` (R355). -/
def execSbbSrc (sz : Size) (src dst : Operand) : State → Result :=
  sequential (.sbbSrc sz src dst) fun s =>
    withSrc sz (s.loc src) (s.loc dst) (aluTo aluSbb sz) s

/-- `SUB.size:G #IMM,dest` (R356). -/
def execSubGImm (v : Imm) (dst : Operand) : State → Result :=
  sequential (.subGImm v dst) fun s =>
    aluTo aluSub v.size (immVal v) (s.loc dst) s

/-- `SUB.B:S #IMM8,dest` (R357). -/
def execSubBSImm (v : BitVec 8) (dst : ShortDest) : State → Result :=
  sequential (.subBSImm v dst) fun s => aluTo aluSub .b v (s.shortLoc dst) s

/-- `SUB.size:G src,dest` (R358). -/
def execSubGSrc (sz : Size) (src dst : Operand) : State → Result :=
  sequential (.subGSrc sz src dst) fun s =>
    withSrc sz (s.loc src) (s.loc dst) (aluTo aluSub sz) s

/-- `SUB.B:S src,R0L/R0H` (R359). -/
def execSubBSSrc (h : Half) (src : ShortSrc) : State → Result :=
  sequential (.subBSSrc h src) fun s =>
    withSrc .b (s.shortSrcLoc h src) (.data (halfDreg h)) (aluTo aluSub .b) s

end Sys2Proof.Machine
end

