-- ==== Sys2Proof/Machine/BitOps.lean ====
section
/-! DEFINITION. The bit instructions (spec/41_bit.md). -/

namespace Sys2Proof.Machine

/-- C becomes a function of the bit and C (R261, R266, R267, R271, R272, R279). -/
def bitToC (op : Bool → Bool → Bool) (b : Bool) (f : Flg) : Flg := { f with c := op b f.c }

/-- `BTST`, `BTSTC`, `BTSTS`: Z is the inverse of the bit, C the bit (R275, R277, R278). -/
def bitToZC (b : Bool) (f : Flg) : Flg := { f with z := !b, c := b }

/-- `BNTST`: Z and C are the inverse of the bit (R270). -/
def bitToZCInv (b : Bool) (f : Flg) : Flg := { f with z := !b, c := !b }

/-- No flag changes. -/
def bitNoFlags (_ : Bool) (f : Flg) : Flg := f

/-- `BAND src` (R261). -/
def execBand (src : BitOp) : State → Result :=
  sequential (.band src) fun s =>
    bitTest (s.bitLoc src) (bitToC fun b c => b && c) s

/-- `BNAND src` (R266). -/
def execBnand (src : BitOp) : State → Result :=
  sequential (.bnand src) fun s =>
    bitTest (s.bitLoc src) (bitToC fun b c => !b && c) s

/-- `BNOR src` (R267). -/
def execBnor (src : BitOp) : State → Result :=
  sequential (.bnor src) fun s =>
    bitTest (s.bitLoc src) (bitToC fun b c => !b || c) s

/-- `BNXOR src` (R271). -/
def execBnxor (src : BitOp) : State → Result :=
  sequential (.bnxor src) fun s =>
    bitTest (s.bitLoc src) (bitToC fun b c => (!b) ^^ c) s

/-- `BOR src` (R272). -/
def execBor (src : BitOp) : State → Result :=
  sequential (.bor src) fun s =>
    bitTest (s.bitLoc src) (bitToC fun b c => b || c) s

/-- `BXOR src` (R279). -/
def execBxor (src : BitOp) : State → Result :=
  sequential (.bxor src) fun s =>
    bitTest (s.bitLoc src) (bitToC fun b c => b ^^ c) s

/-- `BNTST src` (R270). -/
def execBntst (src : BitOp) : State → Result :=
  sequential (.bntst src) fun s => bitTest (s.bitLoc src) bitToZCInv s

/-- `BTST:G src` (R275). -/
def execBtstG (src : BitOp) : State → Result :=
  sequential (.btstG src) fun s => bitTest (s.bitLoc src) bitToZC s

/-- `BTST:S bit,base:11[SB]` (R276). -/
def execBtstS (n : BitVec 3) (d : BitVec 8) : State → Result :=
  sequential (.btstS n d) fun s => bitTest (s.shortBit n d) bitToZC s

/-- `BCLR:G dest` (R262). -/
def execBclrG (dst : BitOp) : State → Result :=
  sequential (.bclrG dst) fun s =>
    bitModify (s.bitLoc dst) (fun _ => false) bitNoFlags s

/-- `BCLR:S bit,base:11[SB]` (R263). -/
def execBclrS (n : BitVec 3) (d : BitVec 8) : State → Result :=
  sequential (.bclrS n d) fun s =>
    bitModify (s.shortBit n d) (fun _ => false) bitNoFlags s

/-- `BSET:G dest` (R273). -/
def execBsetG (dst : BitOp) : State → Result :=
  sequential (.bsetG dst) fun s =>
    bitModify (s.bitLoc dst) (fun _ => true) bitNoFlags s

/-- `BSET:S bit,base:11[SB]` (R274). -/
def execBsetS (n : BitVec 3) (d : BitVec 8) : State → Result :=
  sequential (.bsetS n d) fun s =>
    bitModify (s.shortBit n d) (fun _ => true) bitNoFlags s

/-- `BNOT:G dest` (R268). -/
def execBnotG (dst : BitOp) : State → Result :=
  sequential (.bnotG dst) fun s =>
    bitModify (s.bitLoc dst) (fun b => !b) bitNoFlags s

/-- `BNOT:S bit,base:11[SB]` (R269). -/
def execBnotS (n : BitVec 3) (d : BitVec 8) : State → Result :=
  sequential (.bnotS n d) fun s =>
    bitModify (s.shortBit n d) (fun b => !b) bitNoFlags s

/-- `BTSTC dest` (R277). -/
def execBtstc (dst : BitOp) : State → Result :=
  sequential (.btstc dst) fun s =>
    bitModify (s.bitLoc dst) (fun _ => false) bitToZC s

/-- `BTSTS dest` (R278). -/
def execBtsts (dst : BitOp) : State → Result :=
  sequential (.btsts dst) fun s =>
    bitModify (s.bitLoc dst) (fun _ => true) bitToZC s

/-- `BMCnd dest`: the truth value of the condition (R264). -/
def execBmcnd (dst : BitOp) (c : Cond) : State → Result :=
  sequential (.bmcnd dst c) fun s =>
    bitModify (s.bitLoc dst) (fun _ => condHolds c s.flg) bitNoFlags s

/-- `BMCnd C` (R265). -/
def execBmcndC (c : Cond) : State → Result :=
  sequential (.bmcndC c) fun s =>
    .next (s.setFlg { s.flg with c := condHolds c s.flg })

end Sys2Proof.Machine
end

