-- ==== Sys2Proof/Machine/Decimal.lean ====
section
/-! DEFINITION. Decimal arithmetic, multiplication, division and the sum of products (spec/44_decimal_muldiv.md). -/

namespace Sys2Proof.Machine

/-- FLG with S, Z and C drawn freely (R381, I7). -/
def anySZC (n : Nat) (f : Flg) : Flg :=
  { f with s := Config.freeBit n, z := Config.freeBit (n + 1), c := Config.freeBit (n + 2) }

/-- A decimal operation on R0L; free values when an operand is no BCD pattern (R381, I7). -/
def decByte (sub : Bool) (src : Byte) (cin : Bool) (s : State) : State :=
  match decArith sub 2 (s.dreg8 .d0) src cin s.flg with
  | some (r, f) => (s.setFlg f).setDreg8 .d0 r
  | none =>
    { (s.setFlg (anySZC (s.draws + 1) s.flg)).setDreg8 .d0 (Config.freeVal 8 s.draws) with draws := s.draws + 4 }

/-- A decimal operation on R0; free values when an operand is no BCD pattern (R381, I7). -/
def decWord (sub : Bool) (src : Word) (cin : Bool) (s : State) : State :=
  match decArith sub 4 (s.dreg16 .d0) src cin s.flg with
  | some (r, f) => (s.setFlg f).setDreg16 .d0 r
  | none =>
    { (s.setFlg (anySZC (s.draws + 1) s.flg)).setDreg16 .d0 (Config.freeVal 16 s.draws) with draws := s.draws + 4 }

/-- `DADC.B #IMM8,R0L` (R382). -/
def execDadcBImm (v : BitVec 8) : State → Result :=
  sequential (.dadcBImm v) fun s => .next (decByte false v s.flg.c s)

/-- `DADC.W #IMM16,R0` (R383). -/
def execDadcWImm (v : BitVec 16) : State → Result :=
  sequential (.dadcWImm v) fun s => .next (decWord false v s.flg.c s)

/-- `DADC.B R0H,R0L` (R384). -/
def execDadcBReg : State → Result :=
  sequential .dadcBReg fun s => .next (decByte false (s.dreg8 .d1) s.flg.c s)

/-- `DADC.W R1,R0` (R385). -/
def execDadcWReg : State → Result :=
  sequential .dadcWReg fun s => .next (decWord false (s.dreg16 .d1) s.flg.c s)

/-- `DADD.B #IMM8,R0L` (R386). -/
def execDaddBImm (v : BitVec 8) : State → Result :=
  sequential (.daddBImm v) fun s => .next (decByte false v false s)

/-- `DADD.W #IMM16,R0` (R387). -/
def execDaddWImm (v : BitVec 16) : State → Result :=
  sequential (.daddWImm v) fun s => .next (decWord false v false s)

/-- `DADD.B R0H,R0L` (R388). -/
def execDaddBReg : State → Result :=
  sequential .daddBReg fun s => .next (decByte false (s.dreg8 .d1) false s)

/-- `DADD.W R1,R0` (R389). -/
def execDaddWReg : State → Result :=
  sequential .daddWReg fun s => .next (decWord false (s.dreg16 .d1) false s)

/-- `DSBB.B #IMM8,R0L` (R390). -/
def execDsbbBImm (v : BitVec 8) : State → Result :=
  sequential (.dsbbBImm v) fun s => .next (decByte true v (!s.flg.c) s)

/-- `DSBB.W #IMM16,R0` (R391). -/
def execDsbbWImm (v : BitVec 16) : State → Result :=
  sequential (.dsbbWImm v) fun s => .next (decWord true v (!s.flg.c) s)

/-- `DSBB.B R0H,R0L` (R392). -/
def execDsbbBReg : State → Result :=
  sequential .dsbbBReg fun s => .next (decByte true (s.dreg8 .d1) (!s.flg.c) s)

/-- `DSBB.W R1,R0` (R393). -/
def execDsbbWReg : State → Result :=
  sequential .dsbbWReg fun s => .next (decWord true (s.dreg16 .d1) (!s.flg.c) s)

/-- `DSUB.B #IMM8,R0L` (R394). -/
def execDsubBImm (v : BitVec 8) : State → Result :=
  sequential (.dsubBImm v) fun s => .next (decByte true v false s)

/-- `DSUB.W #IMM16,R0` (R395). -/
def execDsubWImm (v : BitVec 16) : State → Result :=
  sequential (.dsubWImm v) fun s => .next (decWord true v false s)

/-- `DSUB.B R0H,R0L` (R396). -/
def execDsubBReg : State → Result :=
  sequential .dsubBReg fun s => .next (decByte true (s.dreg8 .d1) false s)

/-- `DSUB.W R1,R0` (R397). -/
def execDsubWReg : State → Result :=
  sequential .dsubWReg fun s => .next (decWord true (s.dreg16 .d1) false s)

/-- A division with the divisor already read: quotient to R0L or R0, remainder to R0H or R2, O cleared; on overflow O
set and both free (R398, I8). -/
def divBy (k : DivKind) (z : Size) (v : BitVec (Size.bits z)) (s : State) : State :=
  match z, v with
  | .b, v =>
    match divide (w := 8) k s.bank.r0 v with
    | some (q, r) => (s.setFlg { s.flg with o := false }).setDreg16 .d0 (r ++ q)
    | none =>
      { (s.setFlg { s.flg with o := true }).setDreg16 .d0 (Config.freeVal 16 s.draws) with draws := s.draws + 1 }
  | .w, v =>
    match divide (w := 16) k (s.pair .r2r0) v with
    | some (q, r) => (s.setFlg { s.flg with o := false }).setPair .r2r0 (r ++ q)
    | none =>
      { (s.setFlg { s.flg with o := true }).setPair .r2r0 (Config.freeVal 32 s.draws) with draws := s.draws + 1 }

/-- A division by an operand. -/
def divByLoc (k : DivKind) (z : Size) (l : Loc) (s : State) : State :=
  let v := readLoc z l s
  divBy k z v.1 v.2

/-- `DIV.size #IMM` (R399). -/
def execDivImm (v : Imm) : State → Result :=
  sequential (.divImm v) fun s => .next (divBy .div v.size (immVal v) s)

/-- `DIVU.size #IMM` (R401). -/
def execDivuImm (v : Imm) : State → Result :=
  sequential (.divuImm v) fun s => .next (divBy .divu v.size (immVal v) s)

/-- `DIVX.size #IMM` (R403). -/
def execDivxImm (v : Imm) : State → Result :=
  sequential (.divxImm v) fun s => .next (divBy .divx v.size (immVal v) s)

/-- `DIV.size src` (R400). -/
def execDivSrc (sz : Size) (src : Operand) : State → Result :=
  sequential (.divSrc sz src) fun s => .next (divByLoc .div sz (s.loc src) s)

/-- `DIVU.size src` (R402). -/
def execDivuSrc (sz : Size) (src : Operand) : State → Result :=
  sequential (.divuSrc sz src) fun s => .next (divByLoc .divu sz (s.loc src) s)

/-- `DIVX.size src` (R404). -/
def execDivxSrc (sz : Size) (src : Operand) : State → Result :=
  sequential (.divxSrc sz src) fun s => .next (divByLoc .divx sz (s.loc src) s)

/-- A multiplication with the source already read; where the product goes is the table of R405. -/
def mulTo (signed : Bool) (z : Size) (src : BitVec (Size.bits z)) (l : Loc) (s : State) : Result :=
  match z, src with
  | .b, src =>
    let d := readLoc .b l s
    let p : Word := mulExact (w := 8) signed d.1 src
    match l with
    | .data .d2 => .next (d.2.setDreg16 .d1 p)
    | .data _ => .next (d.2.setDreg16 .d0 p)
    | .addr _ => .next (d.2.setAreg .a0 p)
    | .mem a => writeWord .other a p d.2
  | .w, src =>
    let d := readLoc .w l s
    let p : BitVec 32 := mulExact (w := 16) signed d.1 src
    match l with
    | .data .d1 => .next (d.2.setPair .r3r1 p)
    | .data _ => .next (d.2.setPair .r2r0 p)
    | .addr _ => .next (d.2.setPair .a1a0 p)
    | .mem a => write32 .other a p d.2

/-- `MUL.size #IMM,dest` (R406). -/
def execMulImm (v : Imm) (dst : Operand) : State → Result :=
  sequential (.mulImm v dst) fun s => mulTo true v.size (immVal v) (s.loc dst) s

/-- `MUL.size src,dest` (R407). -/
def execMulSrc (sz : Size) (src dst : Operand) : State → Result :=
  sequential (.mulSrc sz src dst) fun s =>
    withSrc sz (s.loc src) (s.loc dst) (mulTo true sz) s

/-- `MULU.size #IMM,dest` (R408). -/
def execMuluImm (v : Imm) (dst : Operand) : State → Result :=
  sequential (.muluImm v dst) fun s => mulTo false v.size (immVal v) (s.loc dst) s

/-- `MULU.size src,dest` (R409). -/
def execMuluSrc (sz : Size) (src dst : Operand) : State → Result :=
  sequential (.muluSrc sz src dst) fun s =>
    withSrc sz (s.loc src) (s.loc dst) (mulTo false sz) s

/-- The accumulator of `RMPA` (R410). -/
def rmpaAcc (z : Size) (s : State) : Int :=
  match z with
  | .b => s.bank.r0.toInt
  | .w => (s.pair .r2r0).toInt

/-- Writes the accumulator of `RMPA`, truncated (R410). -/
def setRmpaAcc (z : Size) (v : Int) (s : State) : State :=
  match z with
  | .b => s.setDreg16 .d0 (BitVec.ofInt 16 v)
  | .w => s.setPair .r2r0 (BitVec.ofInt 32 v)

/-- One iteration of `RMPA` (R410): the step ends the instruction on overflow, with A0, A1 and R3 free (I9), and when
the count reaches 0; between two iterations `pc` stays (R480). -/
def rmpaStep (z : Size) (len : Nat) (s : State) : State :=
  if s.bank.r3 = 0#16 then s.advance len
  else
    let a := readMem z (near s.bank.a0) s
    let b := readMem z (near s.bank.a1) a.2
    let acc := rmpaAcc z s + a.1.toInt * b.1.toInt
    let t := setRmpaAcc z acc b.2
    let k := BitVec.ofNat 16 (sizeBytes z)
    if outOfRange (2 * Size.bits z) acc then
      let u := t.setBank { t.bank with a0 := Config.freeVal 16 t.draws, a1 := Config.freeVal 16 (t.draws + 1)
                                       r3 := Config.freeVal 16 (t.draws + 2) }
      { u.setFlg { u.flg with o := true } with draws := t.draws + 3 }.advance len
    else
      let u := t.setBank { t.bank with a0 := t.bank.a0 + k, a1 := t.bank.a1 + k, r3 := t.bank.r3 - 1 }
      if t.bank.r3 = 1#16 then (u.setFlg { u.flg with o := false }).advance len else u.stay len

/-- `RMPA.size`: one iteration for each step (R410, R480). -/
def execRmpa (sz : Size) : State → Result :=
  guarded (.rmpa sz) fun s => .next (rmpaStep sz 2 s)

end Sys2Proof.Machine
end

