-- ==== Sys2Proof/Machine/Jump.lean ====
section
/-! DEFINITION. Jumps, calls, returns and decrement-and-branch (spec/46_jump.md). -/

namespace Sys2Proof.Machine

/-- The target of `JMPI.W` and `JSRI.W`: the instruction's own address plus the signed source (R448). -/
def jmpWTarget (src : JmpW) (s : State) : Addr × State :=
  match src with
  | .reg r => (s.relative 0 (s.reg16 r), s)
  | .mem e =>
    let v := readWord (s.jmpEa e) s
    (s.relative 0 v.1, v.2)

/-- The target of `JMPI.A` and `JSRI.A`: the low 20 bits of the source (R449). -/
def jmpATarget (src : JmpA) (s : State) : Addr × State :=
  match src with
  | .pair p => ((s.pair p).extractLsb' 0 20, s)
  | .mem e =>
    let v := read24 (s.jmpEa e) s
    (v.1.extractLsb' 0 20, v.2)

/-- The address of a special page entry (R85, R450). -/
def specialEntry (n : BitVec 8) : Addr := 0xFFFFE#20 - (n.setWidth 20 <<< 1)

/-- The target in a special page entry (R450). -/
def specialTarget (n : BitVec 8) (s : State) : Addr × State :=
  let v := readWord (specialEntry n) s
  (0xF#4 ++ v.1, v.2)

/-- Pushes the address after the instruction, then jumps (R451). -/
def callTo (target : Addr) (len : Nat) (s : State) : Result :=
  andThen (pushRet (s.next len) s) fun t => .next (t.jump target)

/-- Adds to a location, then branches when the result is not 0; no flag changes (R457). -/
def addJump (z : Size) (v : BitVec (Size.bits z)) (l : Loc) (disp : BitVec 8) (len : Nat) (s : State) : Result :=
  let d := readLoc z l s
  let r := d.1 + v
  andThen (writeLoc .other z l r d.2) fun t =>
    .next (if r = 0#_ then t.advance len else t.jump (s.relative 2 disp))

/-- `JMP.S label` (R442). -/
def execJmpS (d : BitVec 3) : State → Result :=
  guarded (.jmpS d) fun s => .next (s.jump (s.pc + 2 + d.setWidth 20))

/-- `JMP.B label` (R443). -/
def execJmpB (d : BitVec 8) : State → Result :=
  guarded (.jmpB d) fun s => .next (s.jump (s.relative 1 d))

/-- `JMP.W label` (R444). -/
def execJmpW (d : BitVec 16) : State → Result :=
  guarded (.jmpW d) fun s => .next (s.jump (s.relative 1 d))

/-- `JMP.A label` (R445). -/
def execJmpA (a : BitVec 20) : State → Result :=
  guarded (.jmpA a) fun s => .next (s.jump a)

/-- `JCnd label`, 1-byte opcode form (R446). -/
def execJcnd8 (c : Cond) (d : BitVec 8) : State → Result :=
  guarded (.jcnd8 c d) fun s =>
    .next (if condHolds c s.flg then s.jump (s.relative 1 d) else s.advance 2)

/-- `JCnd label`, 2-byte opcode form (R447). -/
def execJcnd16 (c : Cond) (d : BitVec 8) : State → Result :=
  guarded (.jcnd16 c d) fun s =>
    .next (if condHolds c s.flg then s.jump (s.relative 2 d) else s.advance 3)

/-- `JMPI.W src` (R448). -/
def execJmpiW (src : JmpW) : State → Result :=
  guarded (.jmpiW src) fun s =>
    let t := jmpWTarget src s
    .next (t.2.jump t.1)

/-- `JMPI.A src` (R449). -/
def execJmpiA (src : JmpA) : State → Result :=
  guarded (.jmpiA src) fun s =>
    let t := jmpATarget src s
    .next (t.2.jump t.1)

/-- `JMPS #IMM8` (R450). -/
def execJmps (n : BitVec 8) : State → Result :=
  guarded (.jmps n) fun s =>
    let t := specialTarget n s
    .next (t.2.jump t.1)

/-- `JSR.W label` (R451). -/
def execJsrW (d : BitVec 16) : State → Result :=
  guarded (.jsrW d) fun s => callTo (s.relative 1 d) 3 s

/-- `JSR.A label` (R452). -/
def execJsrA (a : BitVec 20) : State → Result :=
  guarded (.jsrA a) fun s => callTo a 4 s

/-- `JSRI.W src`: the source is read before the push (R453). -/
def execJsriW (src : JmpW) : State → Result :=
  guarded (.jsriW src) fun s =>
    let t := jmpWTarget src s
    callTo t.1 (Instr.jsriW src).length t.2

/-- `JSRI.A src` (R454). -/
def execJsriA (src : JmpA) : State → Result :=
  guarded (.jsriA src) fun s =>
    let t := jmpATarget src s
    callTo t.1 (Instr.jsriA src).length t.2

/-- `JSRS #IMM8`: the push, then the table (R455). -/
def execJsrs (n : BitVec 8) : State → Result :=
  guarded (.jsrs n) fun s =>
    andThen (pushRet (s.next 2) s) fun t =>
      let v := specialTarget n t
      .next (v.2.jump v.1)

/-- `RTS` (R456). -/
def execRts : State → Result :=
  guarded .rts fun s =>
    let lo := pop16 s
    let hi := pop8 lo.2
    .next (hi.2.jump (hi.1.extractLsb' 0 4 ++ lo.1))

/-- `ADJNZ.size #IMM,dest,label` (R457). -/
def execAdjnz (sz : Size) (v : BitVec 4) (dst : Operand) (d : BitVec 8) : State → Result :=
  guarded (.adjnz sz v dst d) fun s =>
    addJump sz (quickVal sz v) (s.loc dst) d (Instr.adjnz sz v dst d).length s

/-- `SBJNZ.size #IMM,dest,label`: the code of `ADJNZ` with the immediate negated (R154, R458). -/
def execSbjnz (sz : Size) (v : BitVec 4) (dst : Operand) (d : BitVec 8) : State → Result :=
  guarded (.sbjnz sz v dst d) fun s =>
    addJump sz (quickVal sz v) (s.loc dst) d (Instr.sbjnz sz v dst d).length s

end Sys2Proof.Machine
end

