-- ==== Sys2Proof/Machine/Logic.lean ====
section
/-! DEFINITION. The logic instructions (spec/45_logic.md). -/

namespace Sys2Proof.Machine

/-- `AND.size:G #IMM,dest` (R421). -/
def execAndGImm (v : Imm) (dst : Operand) : State → Result :=
  sequential (.andGImm v dst) fun s =>
    aluTo aluAnd v.size (immVal v) (s.loc dst) s

/-- `AND.B:S #IMM8,dest` (R422). -/
def execAndBSImm (v : BitVec 8) (dst : ShortDest) : State → Result :=
  sequential (.andBSImm v dst) fun s => aluTo aluAnd .b v (s.shortLoc dst) s

/-- `AND.size:G src,dest` (R423). -/
def execAndGSrc (sz : Size) (src dst : Operand) : State → Result :=
  sequential (.andGSrc sz src dst) fun s =>
    withSrc sz (s.loc src) (s.loc dst) (aluTo aluAnd sz) s

/-- `AND.B:S src,R0L/R0H` (R424). -/
def execAndBSSrc (h : Half) (src : ShortSrc) : State → Result :=
  sequential (.andBSSrc h src) fun s =>
    withSrc .b (s.shortSrcLoc h src) (.data (halfDreg h)) (aluTo aluAnd .b) s

/-- `NOT.size:G dest` (R425). -/
def execNotG (sz : Size) (dst : Operand) : State → Result :=
  sequential (.notG sz dst) fun s => unaryTo unNot sz (s.loc dst) s

/-- `NOT.B:S dest` (R426). -/
def execNotBS (dst : ShortDest) : State → Result :=
  sequential (.notBS dst) fun s => unaryTo unNot .b (s.shortLoc dst) s

/-- `OR.size:G #IMM,dest` (R427). -/
def execOrGImm (v : Imm) (dst : Operand) : State → Result :=
  sequential (.orGImm v dst) fun s =>
    aluTo aluOr v.size (immVal v) (s.loc dst) s

/-- `OR.B:S #IMM8,dest` (R428). -/
def execOrBSImm (v : BitVec 8) (dst : ShortDest) : State → Result :=
  sequential (.orBSImm v dst) fun s => aluTo aluOr .b v (s.shortLoc dst) s

/-- `OR.size:G src,dest` (R429). -/
def execOrGSrc (sz : Size) (src dst : Operand) : State → Result :=
  sequential (.orGSrc sz src dst) fun s =>
    withSrc sz (s.loc src) (s.loc dst) (aluTo aluOr sz) s

/-- `OR.B:S src,R0L/R0H` (R430). -/
def execOrBSSrc (h : Half) (src : ShortSrc) : State → Result :=
  sequential (.orBSSrc h src) fun s =>
    withSrc .b (s.shortSrcLoc h src) (.data (halfDreg h)) (aluTo aluOr .b) s

/-- `TST.size #IMM,dest` (R431). -/
def execTstImm (v : Imm) (dst : Operand) : State → Result :=
  sequential (.tstImm v dst) fun s =>
    aluTest aluAnd v.size (immVal v) (s.loc dst) s

/-- `TST.size src,dest` (R432). -/
def execTstSrc (sz : Size) (src dst : Operand) : State → Result :=
  sequential (.tstSrc sz src dst) fun s =>
    withSrc sz (s.loc src) (s.loc dst) (aluTest aluAnd sz) s

/-- `XOR.size #IMM,dest` (R433). -/
def execXorImm (v : Imm) (dst : Operand) : State → Result :=
  sequential (.xorImm v dst) fun s =>
    aluTo aluXor v.size (immVal v) (s.loc dst) s

/-- `XOR.size src,dest` (R434). -/
def execXorSrc (sz : Size) (src dst : Operand) : State → Result :=
  sequential (.xorSrc sz src dst) fun s =>
    withSrc sz (s.loc src) (s.loc dst) (aluTo aluXor sz) s

end Sys2Proof.Machine
end

