-- ==== Sys2Proof/Machine/Transfer.lean ====
section
/-! DEFINITION. The transfer instructions (spec/40_transfer.md). -/

namespace Sys2Proof.Machine

/-- A store to the far data area: the flags follow the value, and at `.B` from an address register its 16 bits
(R236). -/
def steTo (z : Size) (src : Operand) (far : Addr) (s : State) : Result :=
  let v := readLoc z (s.loc src) s
  let f := match z, src with
    | .b, .addr a => setSZ (s.areg a) v.2.flg
    | _, _ => setSZ v.1 v.2.flg
  writeMem .other z far v.1 (v.2.setFlg f)

/-- A load from the far data area (R234). -/
def ldeFrom (z : Size) (far : Addr) (dst : Operand) (s : State) : Result :=
  let v := readMem z far s
  moveTo .other z v.1 (s.loc dst) v.2

/-- Pushes a value of either size (R226, R227). -/
def pushSized : (z : Size) → BitVec (Size.bits z) → State → Result
  | .b => push8
  | .w => push16

/-- Pops a value of either size (R221). -/
def popSized : (z : Size) → State → BitVec (Size.bits z) × State
  | .b => pop8
  | .w => pop16

/-- A register that `PUSHM`, `POPM`, `LDCTX` and `STCTX` name (R224). -/
inductive CtxReg
  | reg (r : Reg16)
  | sb
  | fb
  deriving DecidableEq, Repr

/-- R0 to FB, the order of ascending addresses (R224). -/
def ctxRegs : List CtxReg := [.reg .r0, .reg .r1, .reg .r2, .reg .r3, .reg .a0, .reg .a1, .sb, .fb]

/-- Reads a register of the list. -/
def State.ctx (s : State) : CtxReg → Word
  | .reg r => s.reg16 r
  | .sb => s.sb
  | .fb => s.bank.fb

/-- Writes a register of the list. -/
def State.setCtx (s : State) (r : CtxReg) (v : Word) : State :=
  match r with
  | .reg r => s.setReg16 r v
  | .sb => { s with sb := v }
  | .fb => s.setFb v

/-- The registers of an order whose bits are set, bit 0 for the first (R224, R231). -/
def selected : List CtxReg → Nat → BitVec 8 → List CtxReg
  | [], _, _ => []
  | r :: rest, k, list => if list.getLsbD k then r :: selected rest (k + 1) list else selected rest (k + 1) list

/-- Pops the registers one after another (R224). -/
def popRegs : List CtxReg → State → State
  | [], s => s
  | r :: rest, s =>
    let v := pop16 s
    popRegs rest (v.2.setCtx r v.1)

/-- Pushes the registers one after another (R231). -/
def pushRegs : List CtxReg → State → Result
  | [], s => .next s
  | r :: rest, s => andThen (push16 (s.ctx r) s) (pushRegs rest)

/-- One nibble of the source into one nibble of the destination (R218). -/
def moveNibble (k : Dir) (s d : Byte) : Byte :=
  match k with
  | .hh => s.extractLsb' 4 4 ++ d.extractLsb' 0 4
  | .hl => d.extractLsb' 4 4 ++ s.extractLsb' 4 4
  | .lh => s.extractLsb' 0 4 ++ d.extractLsb' 0 4
  | .ll => d.extractLsb' 4 4 ++ s.extractLsb' 0 4

/-- The exchange of a data register with a location (R245). -/
def xchgWith (z : Size) (src : DReg) (l : Loc) (s : State) : Result :=
  match z, l with
  | .b, .addr a => .next ((s.setAreg a ((s.dreg8 src).setWidth 16)).setDreg8 src (loByte (s.areg a)))
  | .b, l =>
    let d := readLoc .b l s
    andThen (writeLoc .other .b l (s.dreg8 src) d.2) fun t => .next (t.setDreg8 src d.1)
  | .w, l =>
    let d := readLoc .w l s
    andThen (writeLoc .other .w l (s.dreg16 src) d.2) fun t => .next (t.setDreg16 src d.1)

/-- `MOV.B:S R0L/R0H,dest` (R209). -/
def execMovBSHalfDest (h : Half) (m : ShortMem) : State → Result :=
  sequential (.movBSHalfDest h m) fun s => movTo .b (s.dreg8 (halfDreg h)) (.mem (near (s.shortEa m))) s

/-- `MOV.B:S src,R0L/R0H` (R212). -/
def execMovBSSrcHalf (h : Half) (src : ShortSrc) : State → Result :=
  sequential (.movBSSrcHalf h src) fun s =>
    withSrc .b (s.shortSrcLoc h src) (.data (halfDreg h)) (movTo .b) s

/-- `MOV.B:S src,A0/A1` (R207). -/
def execMovBSSrcAn (a : AReg) (src : ShortSrc) : State → Result :=
  sequential (.movBSSrcAn a src) fun s =>
    withSrc .b (s.shortSrcAnLoc a src) (.addr a) (movTo .b) s

/-- `MOV.size:G src,dest` (R201, R208). -/
def execMovGSrc (sz : Size) (src dst : Operand) : State → Result :=
  sequential (.movGSrc sz src dst) fun s =>
    withSrc sz (s.loc src) (s.loc dst) (movTo sz) s

/-- `MOV.size:G #IMM,dest` (R201, R202). -/
def execMovGImm (v : Imm) (dst : Operand) : State → Result :=
  sequential (.movGImm v dst) fun s =>
    movTo v.size (immVal v) (s.loc dst) s

/-- `MOV.size:Q #IMM,dest` (R203). -/
def execMovQ (sz : Size) (v : BitVec 4) (dst : Operand) : State → Result :=
  sequential (.movQ sz v dst) fun s =>
    movTo sz (quickVal sz v) (s.loc dst) s

/-- `MOV.W:S #IMM16,A0/A1` (R204). -/
def execMovWSImmAn (v : BitVec 16) (a : AReg) : State → Result :=
  sequential (.movWSImmAn v a) (movTo .w v (.addr a))

/-- `MOV.B:S #IMM8,A0/A1` (R204). -/
def execMovBSImmAn (v : BitVec 8) (a : AReg) : State → Result :=
  sequential (.movBSImmAn v a) (movTo .b v (.addr a))

/-- `MOV.B:S #IMM8,dest` (R205). -/
def execMovBSImm (v : BitVec 8) (dst : ShortDest) : State → Result :=
  sequential (.movBSImm v dst) fun s => movTo .b v (s.shortLoc dst) s

/-- `MOV.B:Z #0,dest` (R206). -/
def execMovBZ (dst : ShortDest) : State → Result :=
  sequential (.movBZ dst) fun s => movTo .b 0#8 (s.shortLoc dst) s

/-- `MOV.size:G dsp:8[SP],dest` (R210). -/
def execMovGFromSp (sz : Size) (d : BitVec 8) (dst : Operand) : State → Result :=
  sequential (.movGFromSp sz d dst) fun s =>
    withSrc sz (.mem (near (s.spEa d))) (s.loc dst) (movTo sz) s

/-- `MOV.size:G src,dsp:8[SP]`: the flags at the instruction's own width (R211). -/
def execMovGToSp (sz : Size) (src : Operand) (d : BitVec 8) : State → Result :=
  sequential (.movGToSp sz src d) fun s =>
    withSrc sz (s.loc src) (.mem (near (s.spEa d))) (movTo sz) s

/-- `MOVA src,dest`: the effective address, no memory access (R215). -/
def execMova (src : Ea) (r : Reg16) : State → Result :=
  sequential (.mova src r) fun s => .next (s.setReg16 r (s.ea src))

/-- `MOVDir src,R0L` (R218). -/
def execMovDirToR0L (k : Dir) (src : Operand) : State → Result :=
  sequential (.movDirToR0L k src) fun s =>
    let v := readLoc .b (s.loc src) s
    .next (v.2.setDreg8 .d0 (moveNibble k v.1 (s.dreg8 .d0)))

/-- `MOVDir R0L,dest` (R218). -/
def execMovDirFromR0L (k : Dir) (dst : Operand) : State → Result :=
  sequential (.movDirFromR0L k dst) fun s =>
    let d := readLoc .b (s.loc dst) s
    writeLoc .other .b (s.loc dst) (moveNibble k (s.dreg8 .d0) d.1) d.2

/-- `POP.size:G dest` (R221). -/
def execPopG (sz : Size) (dst : Operand) : State → Result :=
  sequential (.popG sz dst) fun s =>
    let v := popSized sz s
    writeLoc .other sz (s.loc dst) v.1 v.2

/-- `POP.B:S R0L/R0H` (R222). -/
def execPopBS (h : Half) : State → Result :=
  sequential (.popBS h) fun s =>
    let v := pop8 s
    .next (v.2.setDreg8 (halfDreg h) v.1)

/-- `POP.W:S A0/A1` (R223). -/
def execPopWS (a : AReg) : State → Result :=
  sequential (.popWS a) fun s =>
    let v := pop16 s
    .next (v.2.setAreg a v.1)

/-- `POPM dest`: R0 first, FB last; bit 0 of the list is R0 (R224). -/
def execPopm (list : BitVec 8) : State → Result :=
  sequential (.popm list) fun s =>
    .next (popRegs (selected ctxRegs 0 list) s)

/-- `PUSH.size:G #IMM` (R226). -/
def execPushGImm (v : Imm) : State → Result :=
  sequential (.pushGImm v) (pushSized v.size (immVal v))

/-- `PUSH.size:G src`: the source is read before SP changes (R227). -/
def execPushG (sz : Size) (src : Operand) : State → Result :=
  sequential (.pushG sz src) fun s =>
    let v := readLoc sz (s.loc src) s
    pushSized sz v.1 v.2

/-- `PUSH.B:S R0L/R0H` (R228). -/
def execPushBS (h : Half) : State → Result :=
  sequential (.pushBS h) fun s => push8 (s.dreg8 (halfDreg h)) s

/-- `PUSH.W:S A0/A1` (R229). -/
def execPushWS (a : AReg) : State → Result :=
  sequential (.pushWS a) fun s => push16 (s.areg a) s

/-- `PUSHA src`: the effective address is pushed (R230). -/
def execPusha (src : Ea) : State → Result :=
  sequential (.pusha src) fun s => push16 (s.ea src) s

/-- `PUSHM src`: FB first, R0 last; bit 0 of the list is FB (R231). -/
def execPushm (list : BitVec 8) : State → Result :=
  sequential (.pushm list) (pushRegs (selected ctxRegs.reverse 0 list))

/-- `LDE.size abs20,dest` (R234). -/
def execLdeAbs20 (sz : Size) (a : BitVec 20) (dst : Operand) : State → Result :=
  sequential (.ldeAbs20 sz a dst) (ldeFrom sz a dst)

/-- `LDE.size dsp:20[A0],dest` (R234). -/
def execLdeDsp20 (sz : Size) (d : BitVec 20) (dst : Operand) : State → Result :=
  sequential (.ldeDsp20 sz d dst) fun s => ldeFrom sz (s.farDsp d) dst s

/-- `LDE.size [A1A0],dest` (R234). -/
def execLdeA1A0 (sz : Size) (dst : Operand) : State → Result :=
  sequential (.ldeA1A0 sz dst) fun s => ldeFrom sz s.farPair dst s

/-- `STE.size src,abs20` (R236). -/
def execSteAbs20 (sz : Size) (src : Operand) (a : BitVec 20) : State → Result :=
  sequential (.steAbs20 sz src a) (steTo sz src a)

/-- `STE.size src,dsp:20[A0]` (R236). -/
def execSteDsp20 (sz : Size) (src : Operand) (d : BitVec 20) : State → Result :=
  sequential (.steDsp20 sz src d) fun s => steTo sz src (s.farDsp d) s

/-- `STE.size src,[A1A0]` (R236). -/
def execSteA1A0 (sz : Size) (src : Operand) : State → Result :=
  sequential (.steA1A0 sz src) fun s => steTo sz src s.farPair s

/-- `STNZ #IMM8,dest` (R240). -/
def execStnz (v : BitVec 8) (dst : ShortDest) : State → Result :=
  sequential (.stnz v dst) fun s =>
    if s.flg.z then .next s else writeLoc .other .b (s.shortLoc dst) v s

/-- `STZ #IMM8,dest` (R241). -/
def execStz (v : BitVec 8) (dst : ShortDest) : State → Result :=
  sequential (.stz v dst) fun s =>
    if s.flg.z then writeLoc .other .b (s.shortLoc dst) v s else .next s

/-- `STZX #IMM81,#IMM82,dest` (R242). -/
def execStzx (v1 v2 : BitVec 8) (dst : ShortDest) : State → Result :=
  sequential (.stzx v1 v2 dst) fun s =>
    writeLoc .other .b (s.shortLoc dst) (if s.flg.z then v1 else v2) s

/-- `XCHG.size src,dest` (R245). -/
def execXchg (sz : Size) (src : DReg) (dst : Operand) : State → Result :=
  sequential (.xchg sz src dst) fun s => xchgWith sz src (s.loc dst) s

end Sys2Proof.Machine
end

