-- ==== Sys2Proof/Machine/Other.lean ====
section
/-! DEFINITION. Control registers, flags, software interrupts, stack frame, task context, NOP and WAIT
(spec/48_other.md). -/

namespace Sys2Proof.Machine

/-- `LDC`: the transfer and what follows it (R512, R514). -/
def loadCreg (c : CReg) (v : Word) (before s : State) : State := afterCreg before c (s.setCreg c v)

/-- `FSET` and `FCLR`: one flag, and the acceptance test still sees the old I at the next boundary
(R499, R502, R559). -/
def putFlag (n : FlagName) (v : Bool) (s : State) : State :=
  { s.setFlg (s.flg.put n v) with prevI := some s.flg.i }

/-- The vector `BRK` goes through: entry 0 of the variable table when its own four bytes are all FFh
(R490, D27). -/
def brkTarget (v : BitVec 32) (intb : Addr) : Addr := if v = 0xFFFFFFFF#32 then intb else Config.brkVector

/-- Task number, register information and SP correction value (R516). -/
def taskInfo (num : BitVec 16) (table : BitVec 20) (s : State) : Byte × Byte × State :=
  let task := readByte (near num) s
  let t := table + (task.1.setWidth 20 <<< 1)
  let info := readByte t task.2
  let corr := readByte (t + 1) info.2
  (info.1, corr.1, corr.2)

/-- Registers read from a running pointer, R0 first (R516). -/
def loadRegs : List CtxReg → Word → State → State
  | [], _, s => s
  | r :: rest, p, s =>
    let v := readWord (near p) s
    loadRegs rest (p + 2) (v.2.setCtx r v.1)

/-- Registers stored below a running pointer, FB first (R529). -/
def storeRegs : List CtxReg → Word → State → Result
  | [], _, s => .next s
  | r :: rest, p, s => andThen (writeWord .other (near (p - 2)) (s.ctx r) s) (storeRegs rest (p - 2))

/-- `BRK` (R490). -/
def execBrk : State → Result :=
  guarded .brk fun s =>
    let v := read32 Config.brkVector s
    intSeq (brkTarget v.1 s.intb) (s.next 1) true none v.2

/-- `INT #IMM` (R505). -/
def execInt (n : BitVec 6) : State → Result :=
  guarded (.int n) fun s =>
    intSeq (s.variableVector n) (s.next 2) (decide (n.toNat ≤ 31)) none s

/-- `INTO` (R508). -/
def execInto : State → Result :=
  guarded .into fun s =>
    if s.flg.o then intSeq Config.intoVector (s.next 1) true none s else .next (s.advance 1)

/-- `UND` (R532). -/
def execUnd : State → Result :=
  guarded .und fun s => intSeq Config.undVector (s.next 1) true none s

/-- `REIT` (R524). -/
def execReit : State → Result :=
  guarded .reit returnFromInterrupt

/-- `FCLR dest` (R499). -/
def execFclr (f : FlagName) : State → Result :=
  sequential (.fclr f) fun s => .next (putFlag f false s)

/-- `FSET dest` (R502). -/
def execFset (f : FlagName) : State → Result :=
  sequential (.fset f) fun s => .next (putFlag f true s)

/-- `LDIPL #IMM` (R518). -/
def execLdipl (l : BitVec 3) : State → Result :=
  sequential (.ldipl l) fun s =>
    .next ((s.openIpl Config.iplWindow).setFlg (s.flg.setIpl l))

/-- `LDC #IMM16,dest` (R512). -/
def execLdcImm (v : BitVec 16) (c : CReg) : State → Result :=
  sequential (.ldcImm v c) fun s => .next (loadCreg c v s s)

/-- `LDC src,dest` (R514). -/
def execLdcSrc (src : Operand) (c : CReg) : State → Result :=
  sequential (.ldcSrc src c) fun s =>
    let v := readLoc .w (s.loc src) s
    .next (loadCreg c v.1 s v.2)

/-- `LDINTB #IMM20`: the two `LDC` of its expansion as one effect (R517). -/
def execLdintb (v : BitVec 20) : State → Result :=
  sequential (.ldintb v) fun s =>
    .next (afterCreg s .intbl { s with intb := v })

/-- `STC src,dest` (R526). -/
def execStcDest (c : CReg) (dst : Operand) : State → Result :=
  sequential (.stcDest c dst) fun s => writeLoc .other .w (s.loc dst) (s.creg c) s

/-- `STC PC,dest`: the address of the next instruction (R527). -/
def execStcPc (dst : PcDest) : State → Result :=
  sequential (.stcPc dst) fun s =>
    match dst with
    | .pair p => .next (s.setPair p ((s.next (Instr.stcPc dst).length).setWidth 32))
    | .mem e => write24 .other (near (s.ea e)) ((s.next (Instr.stcPc dst).length).setWidth 24) s

/-- `PUSHC src`: read before SP is lowered (R522). -/
def execPushc (c : CReg) : State → Result :=
  sequential (.pushc c) fun s => push16 (s.creg c) s

/-- `POPC dest`: SP moves by 2 unless the pointer itself is loaded (R520). -/
def execPopc (c : CReg) : State → Result :=
  sequential (.popc c) fun s =>
    let v := readWord (near s.sp) s
    let t := if c = .sp ∨ (c = .isp ∧ s.flg.u = false) then v.2 else v.2.setSp (s.sp + 2)
    .next (afterPopc s (loadCreg c v.1 s t))

/-- `ENTER #IMM8` (R493). -/
def execEnter (v : BitVec 8) : State → Result :=
  sequential (.enter v) fun s =>
    andThen (push16 s.bank.fb s) fun t => .next ((t.setFb t.sp).setSp (t.sp - v.setWidth 16))

/-- `EXITD` (R496). -/
def execExitd : State → Result :=
  guarded .exitd fun s =>
    let fb := pop16 (s.setSp s.bank.fb)
    let lo := pop16 (fb.2.setFb fb.1)
    let hi := pop8 lo.2
    .next (hi.2.jump (hi.1.extractLsb' 0 4 ++ lo.1))

/-- `LDCTX abs16,abs20` (R516). -/
def execLdctx (num : BitVec 16) (table : BitVec 20) : State → Result :=
  sequential (.ldctx num table) fun s =>
    let t := taskInfo num table s
    let u := loadRegs (selected ctxRegs 0 t.1) s.sp t.2.2
    .next (u.setSp (s.sp + t.2.1.setWidth 16))

/-- `STCTX abs16,abs20`: FB first, bit 7 of the information (R529). -/
def execStctx (num : BitVec 16) (table : BitVec 20) : State → Result :=
  sequential (.stctx num table) fun s =>
    let t := taskInfo num table s
    andThen (storeRegs (selected ctxRegs 0 t.1).reverse s.sp t.2.2) fun u =>
      .next (u.setSp (s.sp - t.2.1.setWidth 16))

/-- `NOP` (R519). -/
def execNop : State → Result :=
  sequential .nop .next

/-- `WAIT` (R537). -/
def execWait : State → Result :=
  sequential .wait fun s => .next { s with waiting := true }

end Sys2Proof.Machine
end

