-- ==== Sys2Proof/Machine/Shift.lean ====
section
/-! DEFINITION. The shift and rotate instructions (spec/42_shift.md). -/

namespace Sys2Proof.Machine

/-- The free flags of a shift by an undefined count: S, Z and C, and O where the kind changes O (R301, I4). -/
def anyShiftFlags (k : ShiftKind) (n : Nat) (f : Flg) : Flg :=
  { f with s := Config.freeBit n, z := Config.freeBit (n + 1), c := Config.freeBit (n + 2)
           o := (if k = .arith then Config.freeBit (n + 3) else f.o) }

/-- A shift by an undefined count: destination and flags are drawn freely (R301, I4). -/
def shiftUndefined (k : ShiftKind) (z : Size) (l : Loc) (s : State) : Result :=
  let d := (readLoc z l s).2
  writeLoc .other z l (Config.freeVal (Size.bits z) d.draws)
    { d with flg := anyShiftFlags k (d.draws + 1) d.flg, draws := d.draws + 5 }

/-- Largest count in R1H (R301). -/
def maxCount : Size → Nat
  | .b => 8
  | .w => 16

/-- A shift by R1H: nothing for 0, free values outside the legal range (R301). -/
def shiftByR1H (k : ShiftKind) (z : Size) (l : Loc) (s : State) : Result :=
  if s.count = 0#8 then .next s
  else if maxCount z < (regCount s.count).2 then shiftUndefined k z l s
  else unaryTo (shiftFlags k (regCount s.count).1 (regCount s.count).2) z l s

/-- A 32-bit shift by a legal count other than 0: Z and C are drawn freely (R308, R312, I5). -/
def shiftLong (k : ShiftKind) (cnt : Bool × Nat) (p : DPair) (s : State) : State :=
  let r := shiftFlagsL k cnt.1 cnt.2 (Config.freeBit s.draws) (Config.freeBit (s.draws + 1))
    (s.pair (dpairPair p)) s.flg
  { (s.setPair (dpairPair p) r.1).setFlg r.2 with draws := s.draws + 2 }

/-- A 32-bit shift by R1H; the count is read before the pair is written (R301, R309, R313, D22). -/
def shiftLongByR1H (k : ShiftKind) (p : DPair) (s : State) : State :=
  if s.count = 0#8 then s
  else if 16 < (regCount s.count).2 then
    { (s.setPair (dpairPair p) (Config.freeVal 32 s.draws)).setFlg (anyShiftFlags .logical (s.draws + 1) s.flg) with
      draws := s.draws + 4 }
  else shiftLong k (regCount s.count) p s

/-- `ROLC.size dest` (R302). -/
def execRolc (sz : Size) (dst : Operand) : State → Result :=
  sequential (.rolc sz dst) fun s => unaryTo unRolc sz (s.loc dst) s

/-- `RORC.size dest` (R303). -/
def execRorc (sz : Size) (dst : Operand) : State → Result :=
  sequential (.rorc sz dst) fun s => unaryTo unRorc sz (s.loc dst) s

/-- `ROT.size #IMM,dest` (R304). -/
def execRotImm (sz : Size) (n : BitVec 4) (dst : Operand) : State → Result :=
  sequential (.rotImm sz n dst) fun s =>
    unaryTo (shiftFlags .rotate (immCount n).1 (immCount n).2) sz (s.loc dst) s

/-- `SHA.size #IMM,dest` (R306). -/
def execShaImm (sz : Size) (n : BitVec 4) (dst : Operand) : State → Result :=
  sequential (.shaImm sz n dst) fun s =>
    unaryTo (shiftFlags .arith (immCount n).1 (immCount n).2) sz (s.loc dst) s

/-- `SHL.size #IMM,dest` (R310). -/
def execShlImm (sz : Size) (n : BitVec 4) (dst : Operand) : State → Result :=
  sequential (.shlImm sz n dst) fun s =>
    unaryTo (shiftFlags .logical (immCount n).1 (immCount n).2) sz (s.loc dst) s

/-- `ROT.size R1H,dest` (R305). -/
def execRotR1H (sz : Size) (dst : Operand) : State → Result :=
  sequential (.rotR1H sz dst) fun s => shiftByR1H .rotate sz (s.loc dst) s

/-- `SHA.size R1H,dest` (R307). -/
def execShaR1H (sz : Size) (dst : Operand) : State → Result :=
  sequential (.shaR1H sz dst) fun s => shiftByR1H .arith sz (s.loc dst) s

/-- `SHL.size R1H,dest` (R311). -/
def execShlR1H (sz : Size) (dst : Operand) : State → Result :=
  sequential (.shlR1H sz dst) fun s => shiftByR1H .logical sz (s.loc dst) s

/-- `SHA.L #IMM,dest` (R308). -/
def execShaLImm (n : BitVec 4) (p : DPair) : State → Result :=
  sequential (.shaLImm n p) fun s => .next (shiftLong .arith (immCount n) p s)

/-- `SHL.L #IMM,dest` (R312). -/
def execShlLImm (n : BitVec 4) (p : DPair) : State → Result :=
  sequential (.shlLImm n p) fun s => .next (shiftLong .logical (immCount n) p s)

/-- `SHA.L R1H,dest` (R309). -/
def execShaLR1H (p : DPair) : State → Result :=
  sequential (.shaLR1H p) fun s => .next (shiftLongByR1H .arith p s)

/-- `SHL.L R1H,dest` (R313). -/
def execShlLR1H (p : DPair) : State → Result :=
  sequential (.shlLR1H p) fun s => .next (shiftLongByR1H .logical p s)

end Sys2Proof.Machine
end

