-- ==== Sys2Proof/Machine/StringOps.lean ====
section
/-! DEFINITION. The string instructions, one iteration for each step (spec/47_string.md R480 to R484). -/

namespace Sys2Proof.Machine

/-- The 20-bit source address `R1H:A0` (R481). -/
def State.stringSrc (s : State) : Addr := (s.count ++ s.bank.a0).extractLsb' 0 20

/-- After the last iteration `pc <- next`; before it `pc` stays (R480). -/
def endIteration (last : Bool) (len : Nat) (s : State) : State := if last then s.advance len else s.stay len

/-- One iteration of `SMOVB` (R482). -/
def smovbStep (z : Size) (len : Nat) (s : State) : Result :=
  if s.bank.r3 = 0#16 then .next (s.advance len)
  else
    let v := readMem z s.stringSrc s
    andThen (writeMem .other z (near s.bank.a1) v.1 v.2) fun t =>
      let k := BitVec.ofNat 16 (sizeBytes z)
      let h := if t.bank.a0.toNat < sizeBytes z then t.count - 1 else t.count
      let u := t.setBank { t.bank with r1 := h ++ loByte t.bank.r1, a0 := t.bank.a0 - k, a1 := t.bank.a1 - k
                                       r3 := t.bank.r3 - 1 }
      .next (endIteration (t.bank.r3 == 1#16) len u)

/-- One iteration of `SMOVF` (R483). -/
def smovfStep (z : Size) (len : Nat) (s : State) : Result :=
  if s.bank.r3 = 0#16 then .next (s.advance len)
  else
    let v := readMem z s.stringSrc s
    andThen (writeMem .other z (near s.bank.a1) v.1 v.2) fun t =>
      let k := BitVec.ofNat 16 (sizeBytes z)
      let h := if 0xFFFF < t.bank.a0.toNat + sizeBytes z then t.count + 1 else t.count
      let u := t.setBank { t.bank with r1 := h ++ loByte t.bank.r1, a0 := t.bank.a0 + k, a1 := t.bank.a1 + k
                                       r3 := t.bank.r3 - 1 }
      .next (endIteration (t.bank.r3 == 1#16) len u)

/-- One iteration of `SSTR` (R484). -/
def sstrStep (z : Size) (len : Nat) (s : State) : Result :=
  if s.bank.r3 = 0#16 then .next (s.advance len)
  else
    let v := readLoc z (.data .d0) s
    andThen (writeMem .other z (near s.bank.a1) v.1 s) fun t =>
      let k := BitVec.ofNat 16 (sizeBytes z)
      let u := t.setBank { t.bank with a1 := t.bank.a1 + k, r3 := t.bank.r3 - 1 }
      .next (endIteration (t.bank.r3 == 1#16) len u)

/-- `SMOVB.size` (R482). -/
def execSmovb (sz : Size) : State → Result :=
  guarded (.smovb sz) (smovbStep sz 2)

/-- `SMOVF.size` (R483). -/
def execSmovf (sz : Size) : State → Result :=
  guarded (.smovf sz) (smovfStep sz 2)

/-- `SSTR.size` (R484). -/
def execSstr (sz : Size) : State → Result :=
  guarded (.sstr sz) (sstrStep sz 2)

end Sys2Proof.Machine
end

