-- ==== Sys2Proof/Machine/Dispatch.lean ====
section
/-! DEFINITION. One arm per instruction. -/

namespace Sys2Proof.Machine

def exec (i : Instr) (s : State) : Host.Outcome State Fault Refusal :=
  match i with
  | .brk => Sys2Proof.Machine.execBrk s
  | .movBSHalfDest h m => Sys2Proof.Machine.execMovBSHalfDest h m s
  | .nop => Sys2Proof.Machine.execNop s
  | .movBSSrcHalf h src => Sys2Proof.Machine.execMovBSSrcHalf h src s
  | .andBSSrc h src => Sys2Proof.Machine.execAndBSSrc h src s
  | .orBSSrc h src => Sys2Proof.Machine.execOrBSSrc h src s
  | .addBSSrc h src => Sys2Proof.Machine.execAddBSSrc h src s
  | .subBSSrc h src => Sys2Proof.Machine.execSubBSSrc h src s
  | .movBSSrcAn a src => Sys2Proof.Machine.execMovBSSrcAn a src s
  | .cmpBSSrc h src => Sys2Proof.Machine.execCmpBSSrc h src s
  | .bclrS n d => Sys2Proof.Machine.execBclrS n d s
  | .bsetS n d => Sys2Proof.Machine.execBsetS n d s
  | .bnotS n d => Sys2Proof.Machine.execBnotS n d s
  | .btstS n d => Sys2Proof.Machine.execBtstS n d s
  | .jmpS d => Sys2Proof.Machine.execJmpS d s
  | .jcnd8 c d => Sys2Proof.Machine.execJcnd8 c d s
  | .muluSrc sz src dst => Sys2Proof.Machine.execMuluSrc sz src dst s
  | .movGSrc sz src dst => Sys2Proof.Machine.execMovGSrc sz src dst s
  | .steAbs20 sz src a => Sys2Proof.Machine.execSteAbs20 sz src a s
  | .steDsp20 sz src d => Sys2Proof.Machine.execSteDsp20 sz src d s
  | .steA1A0 sz src => Sys2Proof.Machine.execSteA1A0 sz src s
  | .movGToSp sz src d => Sys2Proof.Machine.execMovGToSp sz src d s
  | .pushG sz src => Sys2Proof.Machine.execPushG sz src s
  | .neg sz dst => Sys2Proof.Machine.execNeg sz dst s
  | .rotR1H sz dst => Sys2Proof.Machine.execRotR1H sz dst s
  | .notG sz dst => Sys2Proof.Machine.execNotG sz dst s
  | .ldeAbs20 sz a dst => Sys2Proof.Machine.execLdeAbs20 sz a dst s
  | .ldeDsp20 sz d dst => Sys2Proof.Machine.execLdeDsp20 sz d dst s
  | .ldeA1A0 sz dst => Sys2Proof.Machine.execLdeA1A0 sz dst s
  | .movGFromSp sz d dst => Sys2Proof.Machine.execMovGFromSp sz d dst s
  | .movGImm v dst => Sys2Proof.Machine.execMovGImm v dst s
  | .popG sz dst => Sys2Proof.Machine.execPopG sz dst s
  | .shlR1H sz dst => Sys2Proof.Machine.execShlR1H sz dst s
  | .shaR1H sz dst => Sys2Proof.Machine.execShaR1H sz dst s
  | .tstImm v dst => Sys2Proof.Machine.execTstImm v dst s
  | .xorImm v dst => Sys2Proof.Machine.execXorImm v dst s
  | .andGImm v dst => Sys2Proof.Machine.execAndGImm v dst s
  | .orGImm v dst => Sys2Proof.Machine.execOrGImm v dst s
  | .addGImm v dst => Sys2Proof.Machine.execAddGImm v dst s
  | .subGImm v dst => Sys2Proof.Machine.execSubGImm v dst s
  | .adcImm v dst => Sys2Proof.Machine.execAdcImm v dst s
  | .sbbImm v dst => Sys2Proof.Machine.execSbbImm v dst s
  | .cmpGImm v dst => Sys2Proof.Machine.execCmpGImm v dst s
  | .divxSrc sz src => Sys2Proof.Machine.execDivxSrc sz src s
  | .rolc sz dst => Sys2Proof.Machine.execRolc sz dst s
  | .rorc sz dst => Sys2Proof.Machine.execRorc sz dst s
  | .divuSrc sz src => Sys2Proof.Machine.execDivuSrc sz src s
  | .divSrc sz src => Sys2Proof.Machine.execDivSrc sz src s
  | .adcf sz dst => Sys2Proof.Machine.execAdcf sz dst s
  | .abs sz dst => Sys2Proof.Machine.execAbs sz dst s
  | .mulSrc sz src dst => Sys2Proof.Machine.execMulSrc sz src dst s
  | .xchg sz src dst => Sys2Proof.Machine.execXchg sz src dst s
  | .ldcSrc src c => Sys2Proof.Machine.execLdcSrc src c s
  | .stcDest c dst => Sys2Proof.Machine.execStcDest c dst s
  | .movDirToR0L k src => Sys2Proof.Machine.execMovDirToR0L k src s
  | .movDirFromR0L k dst => Sys2Proof.Machine.execMovDirFromR0L k dst s
  | .jmpiA src => Sys2Proof.Machine.execJmpiA src s
  | .jsriA src => Sys2Proof.Machine.execJsriA src s
  | .jmpiW src => Sys2Proof.Machine.execJmpiW src s
  | .jsriW src => Sys2Proof.Machine.execJsriW src s
  | .muluImm v dst => Sys2Proof.Machine.execMuluImm v dst s
  | .mulImm v dst => Sys2Proof.Machine.execMulImm v dst s
  | .extsB dst => Sys2Proof.Machine.execExtsB dst s
  | .pusha src => Sys2Proof.Machine.execPusha src s
  | .ldipl l => Sys2Proof.Machine.execLdipl l s
  | .addQSp v => Sys2Proof.Machine.execAddQSp v s
  | .stcPc dst => Sys2Proof.Machine.execStcPc dst s
  | .jcnd16 c d => Sys2Proof.Machine.execJcnd16 c d s
  | .bmcndC c => Sys2Proof.Machine.execBmcndC c s
  | .divuImm v => Sys2Proof.Machine.execDivuImm v s
  | .divImm v => Sys2Proof.Machine.execDivImm v s
  | .pushGImm v => Sys2Proof.Machine.execPushGImm v s
  | .divxImm v => Sys2Proof.Machine.execDivxImm v s
  | .daddBReg => Sys2Proof.Machine.execDaddBReg s
  | .daddWReg => Sys2Proof.Machine.execDaddWReg s
  | .dsubBReg => Sys2Proof.Machine.execDsubBReg s
  | .dsubWReg => Sys2Proof.Machine.execDsubWReg s
  | .dadcBReg => Sys2Proof.Machine.execDadcBReg s
  | .dadcWReg => Sys2Proof.Machine.execDadcWReg s
  | .dsbbBReg => Sys2Proof.Machine.execDsbbBReg s
  | .dsbbWReg => Sys2Proof.Machine.execDsbbWReg s
  | .smovf sz => Sys2Proof.Machine.execSmovf sz s
  | .smovb sz => Sys2Proof.Machine.execSmovb sz s
  | .sstr sz => Sys2Proof.Machine.execSstr sz s
  | .addGSp v => Sys2Proof.Machine.execAddGSp v s
  | .daddBImm v => Sys2Proof.Machine.execDaddBImm v s
  | .daddWImm v => Sys2Proof.Machine.execDaddWImm v s
  | .dsubBImm v => Sys2Proof.Machine.execDsubBImm v s
  | .dsubWImm v => Sys2Proof.Machine.execDsubWImm v s
  | .dadcBImm v => Sys2Proof.Machine.execDadcBImm v s
  | .dadcWImm v => Sys2Proof.Machine.execDadcWImm v s
  | .dsbbBImm v => Sys2Proof.Machine.execDsbbBImm v s
  | .dsbbWImm v => Sys2Proof.Machine.execDsbbWImm v s
  | .ldctx num table => Sys2Proof.Machine.execLdctx num table s
  | .stctx num table => Sys2Proof.Machine.execStctx num table s
  | .rmpa sz => Sys2Proof.Machine.execRmpa sz s
  | .enter v => Sys2Proof.Machine.execEnter v s
  | .exitd => Sys2Proof.Machine.execExitd s
  | .extsW => Sys2Proof.Machine.execExtsW s
  | .wait => Sys2Proof.Machine.execWait s
  | .btstc dst => Sys2Proof.Machine.execBtstc dst s
  | .btsts dst => Sys2Proof.Machine.execBtsts dst s
  | .bmcnd dst c => Sys2Proof.Machine.execBmcnd dst c s
  | .bntst src => Sys2Proof.Machine.execBntst src s
  | .band src => Sys2Proof.Machine.execBand src s
  | .bnand src => Sys2Proof.Machine.execBnand src s
  | .bor src => Sys2Proof.Machine.execBor src s
  | .bnor src => Sys2Proof.Machine.execBnor src s
  | .bclrG dst => Sys2Proof.Machine.execBclrG dst s
  | .bsetG dst => Sys2Proof.Machine.execBsetG dst s
  | .bnotG dst => Sys2Proof.Machine.execBnotG dst s
  | .btstG src => Sys2Proof.Machine.execBtstG src s
  | .bxor src => Sys2Proof.Machine.execBxor src s
  | .bnxor src => Sys2Proof.Machine.execBnxor src s
  | .tstSrc sz src dst => Sys2Proof.Machine.execTstSrc sz src dst s
  | .pushBS h => Sys2Proof.Machine.execPushBS h s
  | .addBSImm v dst => Sys2Proof.Machine.execAddBSImm v dst s
  | .xorSrc sz src dst => Sys2Proof.Machine.execXorSrc sz src dst s
  | .subBSImm v dst => Sys2Proof.Machine.execSubBSImm v dst s
  | .andGSrc sz src dst => Sys2Proof.Machine.execAndGSrc sz src dst s
  | .popBS h => Sys2Proof.Machine.execPopBS h s
  | .andBSImm v dst => Sys2Proof.Machine.execAndBSImm v dst s
  | .orGSrc sz src dst => Sys2Proof.Machine.execOrGSrc sz src dst s
  | .orBSImm v dst => Sys2Proof.Machine.execOrBSImm v dst s
  | .addGSrc sz src dst => Sys2Proof.Machine.execAddGSrc sz src dst s
  | .movWSImmAn v a => Sys2Proof.Machine.execMovWSImmAn v a s
  | .incB dst => Sys2Proof.Machine.execIncB dst s
  | .subGSrc sz src dst => Sys2Proof.Machine.execSubGSrc sz src dst s
  | .decB dst => Sys2Proof.Machine.execDecB dst s
  | .adcSrc sz src dst => Sys2Proof.Machine.execAdcSrc sz src dst s
  | .incW a => Sys2Proof.Machine.execIncW a s
  | .movBZ dst => Sys2Proof.Machine.execMovBZ dst s
  | .sbbSrc sz src dst => Sys2Proof.Machine.execSbbSrc sz src dst s
  | .notBS dst => Sys2Proof.Machine.execNotBS dst s
  | .cmpGSrc sz src dst => Sys2Proof.Machine.execCmpGSrc sz src dst s
  | .pushWS a => Sys2Proof.Machine.execPushWS a s
  | .movBSImm v dst => Sys2Proof.Machine.execMovBSImm v dst s
  | .addQ sz v dst => Sys2Proof.Machine.execAddQ sz v dst s
  | .stz v dst => Sys2Proof.Machine.execStz v dst s
  | .cmpQ sz v dst => Sys2Proof.Machine.execCmpQ sz v dst s
  | .popWS a => Sys2Proof.Machine.execPopWS a s
  | .stnz v dst => Sys2Proof.Machine.execStnz v dst s
  | .movQ sz v dst => Sys2Proof.Machine.execMovQ sz v dst s
  | .stzx v1 v2 dst => Sys2Proof.Machine.execStzx v1 v2 dst s
  | .rotImm sz n dst => Sys2Proof.Machine.execRotImm sz n dst s
  | .movBSImmAn v a => Sys2Proof.Machine.execMovBSImmAn v a s
  | .cmpBSImm v dst => Sys2Proof.Machine.execCmpBSImm v dst s
  | .shlImm sz n dst => Sys2Proof.Machine.execShlImm sz n dst s
  | .ldcImm v c => Sys2Proof.Machine.execLdcImm v c s
  | .shlLR1H p => Sys2Proof.Machine.execShlLR1H p s
  | .shaLR1H p => Sys2Proof.Machine.execShaLR1H p s
  | .pushc c => Sys2Proof.Machine.execPushc c s
  | .popc c => Sys2Proof.Machine.execPopc c s
  | .fset f => Sys2Proof.Machine.execFset f s
  | .fclr f => Sys2Proof.Machine.execFclr f s
  | .mova src r => Sys2Proof.Machine.execMova src r s
  | .shlLImm n p => Sys2Proof.Machine.execShlLImm n p s
  | .shaLImm n p => Sys2Proof.Machine.execShaLImm n p s
  | .int n => Sys2Proof.Machine.execInt n s
  | .pushm list => Sys2Proof.Machine.execPushm list s
  | .popm list => Sys2Proof.Machine.execPopm list s
  | .jmps n => Sys2Proof.Machine.execJmps n s
  | .jsrs n => Sys2Proof.Machine.execJsrs n s
  | .shaImm sz n dst => Sys2Proof.Machine.execShaImm sz n dst s
  | .decW a => Sys2Proof.Machine.execDecW a s
  | .rts => Sys2Proof.Machine.execRts s
  | .jmpW d => Sys2Proof.Machine.execJmpW d s
  | .jsrW d => Sys2Proof.Machine.execJsrW d s
  | .into => Sys2Proof.Machine.execInto s
  | .adjnz sz v dst d => Sys2Proof.Machine.execAdjnz sz v dst d s
  | .sbjnz sz v dst d => Sys2Proof.Machine.execSbjnz sz v dst d s
  | .reit => Sys2Proof.Machine.execReit s
  | .jmpA a => Sys2Proof.Machine.execJmpA a s
  | .jsrA a => Sys2Proof.Machine.execJsrA a s
  | .jmpB d => Sys2Proof.Machine.execJmpB d s
  | .und => Sys2Proof.Machine.execUnd s
  | .ldintb v => Sys2Proof.Machine.execLdintb v s

end Sys2Proof.Machine
end

