-- ==== Sys2Proof/Machine/Run.lean ====
section
/-! DEFINITION. One CPU step (spec/60_exceptions.md R558, R561, spec/70_reset_and_hazards.md R630). -/

namespace Sys2Proof.Machine

/-- Runs an instruction, or one iteration of an interruptible one, and completes it. -/
def runDecoded (i : Instr) (s : State) : Result :=
  andThen (exec i s.started) fun t => .next (completed i s t)

/-- Goes on with the instruction in progress, or fetches and runs the next one; a code that is no instruction is
refused (D19). -/
def runInstruction (s : State) : Result :=
  match s.resume with
  | some i => runDecoded i s
  | none =>
    match decode (fetch s).1 with
    | .ok (i, _) => runDecoded i { s with draws := (fetch s).2 }
    | .error e => .refused (refusalOf e)

/-- One step: reset first (R570); then, unless this boundary is shadowed, the acceptance of a hardware interrupt; and
otherwise an instruction, or nothing while waiting (R537, R558). An address-match request that arises where it is not
accepted stays pending (R556, R570). -/
def cpuStep (s : State) : Result :=
  if s.resetReq then .next (hardReset s)
  else if s.intShadow && !s.waiting then
    runInstruction { s with intShadow := false, matchReq := s.matchPending }
  else
    match chooseHw s with
    | (some src, n) => acceptHw src { s with draws := n, matchReq := s.matchPending }
    | (none, n) => if s.waiting then .next { s with draws := n } else runInstruction { s with draws := n }

/-- Stores bytes at ascending addresses. -/
def placeBytes : List Byte → Addr → List Host.Cell → List Host.Cell
  | [], _, m => m
  | b :: rest, a, m => placeBytes rest (a + 1) (memSet m a.toNat b)

end Sys2Proof.Machine
end

