-- ==== Sys2Proof/Machine/Step.lean ====
section
/-! DEFINITION. The step of the machine, and the placement of a table word where the next step fetches. -/

namespace Sys2Proof.Machine

/-- One step of the CPU agent. -/
def step : State → Host.Outcome State Fault Refusal := cpuStep

/-- The bytes of a table word at `pc`, and nothing in the way of their fetch: no reset, no wait, no instruction in
progress, no stale queue, and the boundary before them shadowed as it is after reset. -/
def State.withFetchWord (s : State) (nbits w : Nat) : State :=
  { s with
    mem := placeBytes (tableWordBytes nbits w) s.pc s.mem
    resetReq := false, waiting := false, resume := none, queue := [], intShadow := true }

end Sys2Proof.Machine
end

