-- ==== Sys2Proof/Machine/Environment.lean ====
section
/-! DEFINITION. What the environment agent may do between two steps of the CPU (spec/60_exceptions.md R555). A claim
about one step holds for every state, so it holds after any of these. -/

namespace Sys2Proof.Machine

/-- An action of the environment agent (R555), which it takes between two steps (log 15); what it may show within a step
is in `busRead`. DESIGN CHOICE (log 51): R6 says that the environment also withdraws requests, and nothing lays down how
(R546); there is no such action, and an NMI, watchdog or DBC request stays until it is accepted or the machine is
reset. -/
inductive EnvAction
  /-- A peripheral raises its request. -/
  | request (k : Nat)
  | nmi
  | watchdog
  | dbc
  /-- The value an address of the SFR area returns changes. -/
  | sfr (a : Addr) (v : Byte)
  /-- An address-match register or its enable bit changes (R550: both are in the SFR area). -/
  | matchReg (k : Nat) (m : MatchReg)
  | reset
  deriving DecidableEq, Repr

/-- Sets the request bit of the source at a position. -/
def raiseIrAt : Nat → List Source → List Source
  | _, [] => []
  | 0, x :: rest => { x with ir := true } :: rest
  | k + 1, x :: rest => x :: raiseIrAt k rest

/-- The state after an action. What R555 forbids changes nothing: DBC without `DEBUG_SOURCES`, and an address outside
the SFR area. IR and level of a source are not in the stored byte, so `sfr` cannot change them. -/
def env (e : EnvAction) (s : State) : State :=
  match e with
  | .request k => { s with sources := raiseIrAt k s.sources }
  | .nmi => { s with nmiReq := true }
  | .watchdog => { s with wdtReq := true }
  | .dbc => { s with dbcReq := s.dbcReq || s.product.dbc }
  | .sfr a v =>
    if s.isSfr a then { s with mem := memSet s.mem a.toNat v } else s
  | .matchReg k m => { s with matchRegs := s.matchRegs.set k m }
  | .reset => { s with resetReq := true }

end Sys2Proof.Machine
end

