-- ==== Sys2Proof/Safety.lean ====
section
/-! DEFINITION. The terms claims are stated in: which bytes an instruction stores to, which registers and flags it may
change, where a byte can be stored, and what a consistent state is. -/

namespace Sys2Proof.Machine

/-! Bytes an instruction stores to, computed with the addresses its meaning uses. -/

/-- The bytes of a datum of a size at an address (R73). -/
def sizeAt : Size → Addr → List Addr
  | .b, a => [a]
  | .w, a => [a, a + 1]

/-- Three bytes at an address. -/
def tripleAt (a : Addr) : List Addr := [a, a + 1, a + 2]

/-- The bytes of a location; a register has none. -/
def locBytes (z : Size) : Loc → List Addr
  | .data _ => []
  | .addr _ => []
  | .mem a => sizeAt z a

/-- The bytes of a product at a location (R405). -/
def productBytes : Size → Loc → List Addr
  | _, .data _ => []
  | _, .addr _ => []
  | .b, .mem a => [a, a + 1]
  | .w, .mem a => [a, a + 1, a + 2, a + 2 + 1]

/-- The byte of a bit location; a register has none. -/
def bitBytes : BitLoc → List Addr
  | .reg _ _ => []
  | .mem a _ => [a]

/-- Where a push of a size from a stack pointer stores (R104). -/
def pushAt : Size → Word → Addr
  | .b, sp => near (sp - 1)
  | .w, sp => near (sp - 2)

/-- The bytes of `n` word pushes from a stack pointer. -/
def pushedBytes : Nat → Word → List Addr
  | 0, _ => []
  | n + 1, sp => sizeAt .w (pushAt .w sp) ++ pushedBytes n (sp - 2)

/-- The bytes of a pushed return address (R451). -/
def callBytes (sp : Word) : List Addr := sizeAt .b (pushAt .b sp) ++ sizeAt .w (pushAt .w (sp - 1))

/-- A byte can be stored at the address: it is neither in ROM nor in the hole (D12). -/
def State.writable (s : State) (a : Addr) : Bool := !s.isRom a && !s.isHole a

/-- The bytes an instruction stores to. -/
def storedTo (i : Instr) (s : State) : List Addr :=
  match i with
  | .brk => pushedBytes 2 s.isp
  | .movBSHalfDest _ m => [near (s.shortEa m)]
  | .nop => []
  | .movBSSrcHalf _ _ => []
  | .andBSSrc _ _ => []
  | .orBSSrc _ _ => []
  | .addBSSrc _ _ => []
  | .subBSSrc _ _ => []
  | .movBSSrcAn _ _ => []
  | .cmpBSSrc _ _ => []
  | .bclrS n d => bitBytes (s.shortBit n d)
  | .bsetS n d => bitBytes (s.shortBit n d)
  | .bnotS n d => bitBytes (s.shortBit n d)
  | .btstS _ _ => []
  | .jmpS _ => []
  | .jcnd8 _ _ => []
  | .muluSrc sz _ dst => productBytes sz (s.loc dst)
  | .movGSrc sz _ dst => locBytes sz (s.loc dst)
  | .steAbs20 sz _ a => sizeAt sz a
  | .steDsp20 sz _ d => sizeAt sz (s.farDsp d)
  | .steA1A0 sz _ => sizeAt sz s.farPair
  | .movGToSp sz _ d => sizeAt sz (near (s.spEa d))
  | .pushG sz _ => sizeAt sz (pushAt sz s.sp)
  | .neg sz dst => locBytes sz (s.loc dst)
  | .rotR1H sz dst => if s.count = 0#8 then [] else locBytes sz (s.loc dst)
  | .notG sz dst => locBytes sz (s.loc dst)
  | .ldeAbs20 sz _ dst => locBytes sz (s.loc dst)
  | .ldeDsp20 sz _ dst => locBytes sz (s.loc dst)
  | .ldeA1A0 sz dst => locBytes sz (s.loc dst)
  | .movGFromSp sz _ dst => locBytes sz (s.loc dst)
  | .movGImm v dst => locBytes v.size (s.loc dst)
  | .popG sz dst => locBytes sz (s.loc dst)
  | .shlR1H sz dst => if s.count = 0#8 then [] else locBytes sz (s.loc dst)
  | .shaR1H sz dst => if s.count = 0#8 then [] else locBytes sz (s.loc dst)
  | .tstImm _ _ => []
  | .xorImm v dst => locBytes v.size (s.loc dst)
  | .andGImm v dst => locBytes v.size (s.loc dst)
  | .orGImm v dst => locBytes v.size (s.loc dst)
  | .addGImm v dst => locBytes v.size (s.loc dst)
  | .subGImm v dst => locBytes v.size (s.loc dst)
  | .adcImm v dst => locBytes v.size (s.loc dst)
  | .sbbImm v dst => locBytes v.size (s.loc dst)
  | .cmpGImm _ _ => []
  | .divxSrc _ _ => []
  | .rolc sz dst => locBytes sz (s.loc dst)
  | .rorc sz dst => locBytes sz (s.loc dst)
  | .divuSrc _ _ => []
  | .divSrc _ _ => []
  | .adcf sz dst => locBytes sz (s.loc dst)
  | .abs sz dst => locBytes sz (s.loc dst)
  | .mulSrc sz _ dst => productBytes sz (s.loc dst)
  | .xchg sz _ dst => locBytes sz (s.loc dst)
  | .ldcSrc _ _ => []
  | .stcDest _ dst => locBytes .w (s.loc dst)
  | .movDirToR0L _ _ => []
  | .movDirFromR0L _ dst => locBytes .b (s.loc dst)
  | .jmpiA _ => []
  | .jsriA _ => callBytes s.sp
  | .jmpiW _ => []
  | .jsriW _ => callBytes s.sp
  | .muluImm v dst => productBytes v.size (s.loc dst)
  | .mulImm v dst => productBytes v.size (s.loc dst)
  | .extsB dst => locBytes .w (s.loc dst)
  | .pusha _ => sizeAt .w (pushAt .w s.sp)
  | .ldipl _ => []
  | .addQSp _ => []
  | .stcPc dst => (match dst with
    | .pair _ => []
    | .mem e => tripleAt (near (s.ea e)))
  | .jcnd16 _ _ => []
  | .bmcndC _ => []
  | .divuImm _ => []
  | .divImm _ => []
  | .pushGImm v => sizeAt v.size (pushAt v.size s.sp)
  | .divxImm _ => []
  | .daddBReg => []
  | .daddWReg => []
  | .dsubBReg => []
  | .dsubWReg => []
  | .dadcBReg => []
  | .dadcWReg => []
  | .dsbbBReg => []
  | .dsbbWReg => []
  | .smovf sz => if s.bank.r3 = 0#16 then [] else sizeAt sz (near s.bank.a1)
  | .smovb sz => if s.bank.r3 = 0#16 then [] else sizeAt sz (near s.bank.a1)
  | .sstr sz => if s.bank.r3 = 0#16 then [] else sizeAt sz (near s.bank.a1)
  | .addGSp _ => []
  | .daddBImm _ => []
  | .daddWImm _ => []
  | .dsubBImm _ => []
  | .dsubWImm _ => []
  | .dadcBImm _ => []
  | .dadcWImm _ => []
  | .dsbbBImm _ => []
  | .dsbbWImm _ => []
  | .ldctx _ _ => []
  | .stctx num table => pushedBytes (selected ctxRegs 0 (taskInfo num table s).1).length s.sp
  | .rmpa _ => []
  | .enter _ => sizeAt .w (pushAt .w s.sp)
  | .exitd => []
  | .extsW => []
  | .wait => []
  | .btstc dst => bitBytes (s.bitLoc dst)
  | .btsts dst => bitBytes (s.bitLoc dst)
  | .bmcnd dst _ => bitBytes (s.bitLoc dst)
  | .bntst _ => []
  | .band _ => []
  | .bnand _ => []
  | .bor _ => []
  | .bnor _ => []
  | .bclrG dst => bitBytes (s.bitLoc dst)
  | .bsetG dst => bitBytes (s.bitLoc dst)
  | .bnotG dst => bitBytes (s.bitLoc dst)
  | .btstG _ => []
  | .bxor _ => []
  | .bnxor _ => []
  | .tstSrc _ _ _ => []
  | .pushBS _ => sizeAt .b (pushAt .b s.sp)
  | .addBSImm _ dst => locBytes .b (s.shortLoc dst)
  | .xorSrc sz _ dst => locBytes sz (s.loc dst)
  | .subBSImm _ dst => locBytes .b (s.shortLoc dst)
  | .andGSrc sz _ dst => locBytes sz (s.loc dst)
  | .popBS _ => []
  | .andBSImm _ dst => locBytes .b (s.shortLoc dst)
  | .orGSrc sz _ dst => locBytes sz (s.loc dst)
  | .orBSImm _ dst => locBytes .b (s.shortLoc dst)
  | .addGSrc sz _ dst => locBytes sz (s.loc dst)
  | .movWSImmAn _ _ => []
  | .incB dst => locBytes .b (s.shortLoc dst)
  | .subGSrc sz _ dst => locBytes sz (s.loc dst)
  | .decB dst => locBytes .b (s.shortLoc dst)
  | .adcSrc sz _ dst => locBytes sz (s.loc dst)
  | .incW _ => []
  | .movBZ dst => locBytes .b (s.shortLoc dst)
  | .sbbSrc sz _ dst => locBytes sz (s.loc dst)
  | .notBS dst => locBytes .b (s.shortLoc dst)
  | .cmpGSrc _ _ _ => []
  | .pushWS _ => sizeAt .w (pushAt .w s.sp)
  | .movBSImm _ dst => locBytes .b (s.shortLoc dst)
  | .addQ sz _ dst => locBytes sz (s.loc dst)
  | .stz _ dst => if s.flg.z then locBytes .b (s.shortLoc dst) else []
  | .cmpQ _ _ _ => []
  | .popWS _ => []
  | .stnz _ dst => if s.flg.z then [] else locBytes .b (s.shortLoc dst)
  | .movQ sz _ dst => locBytes sz (s.loc dst)
  | .stzx _ _ dst => locBytes .b (s.shortLoc dst)
  | .rotImm sz _ dst => locBytes sz (s.loc dst)
  | .movBSImmAn _ _ => []
  | .cmpBSImm _ _ => []
  | .shlImm sz _ dst => locBytes sz (s.loc dst)
  | .ldcImm _ _ => []
  | .shlLR1H _ => []
  | .shaLR1H _ => []
  | .pushc _ => sizeAt .w (pushAt .w s.sp)
  | .popc _ => []
  | .fset _ => []
  | .fclr _ => []
  | .mova _ _ => []
  | .shlLImm _ _ => []
  | .shaLImm _ _ => []
  | .int n => pushedBytes 2 (if n.toNat ≤ 31 then s.isp else s.sp)
  | .pushm list => pushedBytes (selected ctxRegs.reverse 0 list).length s.sp
  | .popm _ => []
  | .jmps _ => []
  | .jsrs _ => callBytes s.sp
  | .shaImm sz _ dst => locBytes sz (s.loc dst)
  | .decW _ => []
  | .rts => []
  | .jmpW _ => []
  | .jsrW _ => callBytes s.sp
  | .into => if s.flg.o then pushedBytes 2 s.isp else []
  | .adjnz sz _ dst _ => locBytes sz (s.loc dst)
  | .sbjnz sz _ dst _ => locBytes sz (s.loc dst)
  | .reit => []
  | .jmpA _ => []
  | .jsrA _ => callBytes s.sp
  | .jmpB _ => []
  | .und => pushedBytes 2 s.isp
  | .ldintb _ => []

/-! Registers an instruction may change. -/

/-- A register, with R0 and R1 as their halves (R20, R22); the banked ones are those of the bank selected when the
instruction starts. -/
inductive RegName | r0l | r0h | r1l | r1h | r2 | r3 | a0 | a1 | fb | sb | usp | isp | intb
  deriving DecidableEq, Repr

/-- The bank with a number (R26). -/
def State.bankNo (s : State) (one : Bool) : Bank := if one then s.bank1 else s.bank0

/-- The value of a register, the banked ones in the given bank. -/
def State.regIn (s : State) (one : Bool) : RegName → BitVec 20
  | .r0l => (loByte (s.bankNo one).r0).setWidth 20
  | .r0h => (hiByte (s.bankNo one).r0).setWidth 20
  | .r1l => (loByte (s.bankNo one).r1).setWidth 20
  | .r1h => (hiByte (s.bankNo one).r1).setWidth 20
  | .r2 => (s.bankNo one).r2.setWidth 20
  | .r3 => (s.bankNo one).r3.setWidth 20
  | .a0 => (s.bankNo one).a0.setWidth 20
  | .a1 => (s.bankNo one).a1.setWidth 20
  | .fb => (s.bankNo one).fb.setWidth 20
  | .sb => s.sb.setWidth 20
  | .usp => s.usp.setWidth 20
  | .isp => s.isp.setWidth 20
  | .intb => s.intb

/-- The stack pointer U selects (R36). -/
def State.spName (s : State) : RegName := if s.flg.u then .usp else .isp

/-- Name of an address register. -/
def aregName : AReg → RegName
  | .a0 => .a0
  | .a1 => .a1

/-- Name of a half of R0. -/
def halfReg : Half → RegName
  | .r0l => .r0l
  | .r0h => .r0h

/-- Names of a 16-bit register. -/
def reg16Names : Reg16 → List RegName
  | .r0 => [.r0l, .r0h]
  | .r1 => [.r1l, .r1h]
  | .r2 => [.r2]
  | .r3 => [.r3]
  | .a0 => [.a0]
  | .a1 => [.a1]

/-- Names of the register a general operand is, if it is one (R150). -/
def operandRegs : Size → Operand → List RegName
  | .b, .data .d0 => [.r0l]
  | .b, .data .d1 => [.r0h]
  | .b, .data .d2 => [.r1l]
  | .b, .data .d3 => [.r1h]
  | .w, .data .d0 => [.r0l, .r0h]
  | .w, .data .d1 => [.r1l, .r1h]
  | .w, .data .d2 => [.r2]
  | .w, .data .d3 => [.r3]
  | _, .addr a => [aregName a]
  | _, .mem _ => []

/-- Names of the register a short destination is. -/
def shortRegs : ShortDest → List RegName
  | .half h => [halfReg h]
  | .mem _ => []

/-- Names of a register that holds a bit operand. -/
def bitRegs : BitOp → List RegName
  | .reg r _ => reg16Names r
  | .ind _ => []
  | .rel8 _ _ => []
  | .sb8 _ => []
  | .fb8 _ => []
  | .rel16 _ _ => []
  | .sb16 _ => []
  | .abs16 _ => []

/-- Names of a pair (R23, R24). -/
def pairNames : Pair → List RegName
  | .r2r0 => [.r0l, .r0h, .r2]
  | .r3r1 => [.r1l, .r1h, .r3]
  | .a1a0 => [.a0, .a1]

/-- Names of the registers a product goes to (R405). -/
def productRegs : Size → Operand → List RegName
  | .b, .data .d2 => [.r1l, .r1h]
  | .b, .data _ => [.r0l, .r0h]
  | .b, .addr _ => [.a0]
  | .w, .data .d1 => pairNames .r3r1
  | .w, .data _ => pairNames .r2r0
  | .w, .addr _ => pairNames .a1a0
  | _, .mem _ => []

/-- Names of the dividend's registers, which quotient and remainder replace (R398). -/
def dividendRegs : Size → List RegName
  | .b => [.r0l, .r0h]
  | .w => pairNames .r2r0

/-- The 16-bit register `EXTS.B` writes: R0 for R0L and R1 for R1L (R349). -/
def extsDest : Operand → Operand
  | .data .d2 => .data .d1
  | .data _ => .data .d0
  | .addr a => .addr a
  | .mem e => .mem e

/-- Names of a register of a register list. -/
def ctxNames : CtxReg → List RegName
  | .reg r => reg16Names r
  | .sb => [.sb]
  | .fb => [.fb]

/-- Names of a control register (R38); FLG is told by its flags. -/
def cregNames (s : State) : CReg → List RegName
  | .intbl => [.intb]
  | .intbh => [.intb]
  | .flg => []
  | .isp => [.isp]
  | .sp => [s.spName]
  | .sb => [.sb]
  | .fb => [.fb]

/-- The registers an instruction may change. -/
def changedRegs (i : Instr) (s : State) : List RegName :=
  match i with
  | .brk => [.isp]
  | .movBSHalfDest _ _ => []
  | .nop => []
  | .movBSSrcHalf h _ => [halfReg h]
  | .andBSSrc h _ => [halfReg h]
  | .orBSSrc h _ => [halfReg h]
  | .addBSSrc h _ => [halfReg h]
  | .subBSSrc h _ => [halfReg h]
  | .movBSSrcAn a _ => [aregName a]
  | .cmpBSSrc _ _ => []
  | .bclrS _ _ => []
  | .bsetS _ _ => []
  | .bnotS _ _ => []
  | .btstS _ _ => []
  | .jmpS _ => []
  | .jcnd8 _ _ => []
  | .muluSrc sz _ dst => productRegs sz dst
  | .movGSrc sz _ dst => operandRegs sz dst
  | .steAbs20 _ _ _ => []
  | .steDsp20 _ _ _ => []
  | .steA1A0 _ _ => []
  | .movGToSp _ _ _ => []
  | .pushG _ _ => [s.spName]
  | .neg sz dst => operandRegs sz dst
  | .rotR1H sz dst => operandRegs sz dst
  | .notG sz dst => operandRegs sz dst
  | .ldeAbs20 sz _ dst => operandRegs sz dst
  | .ldeDsp20 sz _ dst => operandRegs sz dst
  | .ldeA1A0 sz dst => operandRegs sz dst
  | .movGFromSp sz _ dst => operandRegs sz dst
  | .movGImm v dst => operandRegs v.size dst
  | .popG sz dst => s.spName :: operandRegs sz dst
  | .shlR1H sz dst => operandRegs sz dst
  | .shaR1H sz dst => operandRegs sz dst
  | .tstImm _ _ => []
  | .xorImm v dst => operandRegs v.size dst
  | .andGImm v dst => operandRegs v.size dst
  | .orGImm v dst => operandRegs v.size dst
  | .addGImm v dst => operandRegs v.size dst
  | .subGImm v dst => operandRegs v.size dst
  | .adcImm v dst => operandRegs v.size dst
  | .sbbImm v dst => operandRegs v.size dst
  | .cmpGImm _ _ => []
  | .divxSrc sz _ => dividendRegs sz
  | .rolc sz dst => operandRegs sz dst
  | .rorc sz dst => operandRegs sz dst
  | .divuSrc sz _ => dividendRegs sz
  | .divSrc sz _ => dividendRegs sz
  | .adcf sz dst => operandRegs sz dst
  | .abs sz dst => operandRegs sz dst
  | .mulSrc sz _ dst => productRegs sz dst
  | .xchg sz src dst => operandRegs sz (.data src) ++ operandRegs sz dst
  | .ldcSrc _ c => cregNames s c
  | .stcDest _ dst => operandRegs .w dst
  | .movDirToR0L _ _ => [.r0l]
  | .movDirFromR0L _ dst => operandRegs .b dst
  | .jmpiA _ => []
  | .jsriA _ => [s.spName]
  | .jmpiW _ => []
  | .jsriW _ => [s.spName]
  | .muluImm v dst => productRegs v.size dst
  | .mulImm v dst => productRegs v.size dst
  | .extsB dst => operandRegs .w (extsDest dst)
  | .pusha _ => [s.spName]
  | .ldipl _ => []
  | .addQSp _ => [s.spName]
  | .stcPc dst => (match dst with
    | .pair p => pairNames p
    | .mem _ => [])
  | .jcnd16 _ _ => []
  | .bmcndC _ => []
  | .divuImm v => dividendRegs v.size
  | .divImm v => dividendRegs v.size
  | .pushGImm _ => [s.spName]
  | .divxImm v => dividendRegs v.size
  | .daddBReg => [.r0l]
  | .daddWReg => [.r0l, .r0h]
  | .dsubBReg => [.r0l]
  | .dsubWReg => [.r0l, .r0h]
  | .dadcBReg => [.r0l]
  | .dadcWReg => [.r0l, .r0h]
  | .dsbbBReg => [.r0l]
  | .dsbbWReg => [.r0l, .r0h]
  | .smovf _ => [.r1h, .a0, .a1, .r3]
  | .smovb _ => [.r1h, .a0, .a1, .r3]
  | .sstr _ => [.a1, .r3]
  | .addGSp _ => [s.spName]
  | .daddBImm _ => [.r0l]
  | .daddWImm _ => [.r0l, .r0h]
  | .dsubBImm _ => [.r0l]
  | .dsubWImm _ => [.r0l, .r0h]
  | .dadcBImm _ => [.r0l]
  | .dadcWImm _ => [.r0l, .r0h]
  | .dsbbBImm _ => [.r0l]
  | .dsbbWImm _ => [.r0l, .r0h]
  | .ldctx num table => s.spName :: (selected ctxRegs 0 (taskInfo num table s).1).flatMap ctxNames
  | .stctx _ _ => [s.spName]
  | .rmpa sz => dividendRegs sz ++ [.a0, .a1, .r3]
  | .enter _ => [s.spName, .fb]
  | .exitd => [s.spName, .fb]
  | .extsW => [.r2]
  | .wait => []
  | .btstc dst => bitRegs dst
  | .btsts dst => bitRegs dst
  | .bmcnd dst _ => bitRegs dst
  | .bntst _ => []
  | .band _ => []
  | .bnand _ => []
  | .bor _ => []
  | .bnor _ => []
  | .bclrG dst => bitRegs dst
  | .bsetG dst => bitRegs dst
  | .bnotG dst => bitRegs dst
  | .btstG _ => []
  | .bxor _ => []
  | .bnxor _ => []
  | .tstSrc _ _ _ => []
  | .pushBS _ => [s.spName]
  | .addBSImm _ dst => shortRegs dst
  | .xorSrc sz _ dst => operandRegs sz dst
  | .subBSImm _ dst => shortRegs dst
  | .andGSrc sz _ dst => operandRegs sz dst
  | .popBS h => [s.spName, halfReg h]
  | .andBSImm _ dst => shortRegs dst
  | .orGSrc sz _ dst => operandRegs sz dst
  | .orBSImm _ dst => shortRegs dst
  | .addGSrc sz _ dst => operandRegs sz dst
  | .movWSImmAn _ a => [aregName a]
  | .incB dst => shortRegs dst
  | .subGSrc sz _ dst => operandRegs sz dst
  | .decB dst => shortRegs dst
  | .adcSrc sz _ dst => operandRegs sz dst
  | .incW a => [aregName a]
  | .movBZ dst => shortRegs dst
  | .sbbSrc sz _ dst => operandRegs sz dst
  | .notBS dst => shortRegs dst
  | .cmpGSrc _ _ _ => []
  | .pushWS _ => [s.spName]
  | .movBSImm _ dst => shortRegs dst
  | .addQ sz _ dst => operandRegs sz dst
  | .stz _ dst => if s.flg.z then shortRegs dst else []
  | .cmpQ _ _ _ => []
  | .popWS a => [s.spName, aregName a]
  | .stnz _ dst => if s.flg.z then [] else shortRegs dst
  | .movQ sz _ dst => operandRegs sz dst
  | .stzx _ _ dst => shortRegs dst
  | .rotImm sz _ dst => operandRegs sz dst
  | .movBSImmAn _ a => [aregName a]
  | .cmpBSImm _ _ => []
  | .shlImm sz _ dst => operandRegs sz dst
  | .ldcImm _ c => cregNames s c
  | .shlLR1H p => pairNames (dpairPair p)
  | .shaLR1H p => pairNames (dpairPair p)
  | .pushc _ => [s.spName]
  | .popc c => s.spName :: cregNames s c
  | .fset _ => []
  | .fclr _ => []
  | .mova _ r => reg16Names r
  | .shlLImm _ p => pairNames (dpairPair p)
  | .shaLImm _ p => pairNames (dpairPair p)
  | .int n => [if n.toNat ≤ 31 then .isp else s.spName]
  | .pushm _ => [s.spName]
  | .popm list => s.spName :: (selected ctxRegs 0 list).flatMap ctxNames
  | .jmps _ => []
  | .jsrs _ => [s.spName]
  | .shaImm sz _ dst => operandRegs sz dst
  | .decW a => [aregName a]
  | .rts => [s.spName]
  | .jmpW _ => []
  | .jsrW _ => [s.spName]
  | .into => if s.flg.o then [.isp] else []
  | .adjnz sz _ dst _ => operandRegs sz dst
  | .sbjnz sz _ dst _ => operandRegs sz dst
  | .reit => [s.spName]
  | .jmpA _ => []
  | .jsrA _ => [s.spName]
  | .jmpB _ => []
  | .und => [.isp]
  | .ldintb _ => [.intb]

/-! Flags an instruction may change: the table of R51. -/

/-- All eight flags. -/
def allFlags : List FlagName := [.c, .d, .z, .s, .b, .o, .i, .u]

/-- The value of a flag. -/
def Flg.get (f : Flg) : FlagName → Bool
  | .c => f.c
  | .d => f.d
  | .z => f.z
  | .s => f.s
  | .b => f.b
  | .o => f.o
  | .i => f.i
  | .u => f.u

/-- The flags an instruction may change (R51). -/
def changedFlags (i : Instr) (s : State) : List FlagName :=
  match i with
  | .brk => [.u, .i, .d]
  | .movBSHalfDest _ _ => [.s, .z]
  | .nop => []
  | .movBSSrcHalf _ _ => [.s, .z]
  | .andBSSrc _ _ => [.s, .z]
  | .orBSSrc _ _ => [.s, .z]
  | .addBSSrc _ _ => [.o, .s, .z, .c]
  | .subBSSrc _ _ => [.o, .s, .z, .c]
  | .movBSSrcAn _ _ => [.s, .z]
  | .cmpBSSrc _ _ => [.o, .s, .z, .c]
  | .bclrS _ _ => []
  | .bsetS _ _ => []
  | .bnotS _ _ => []
  | .btstS _ _ => [.z, .c]
  | .jmpS _ => []
  | .jcnd8 _ _ => []
  | .muluSrc _ _ _ => []
  | .movGSrc _ _ _ => [.s, .z]
  | .steAbs20 _ _ _ => [.s, .z]
  | .steDsp20 _ _ _ => [.s, .z]
  | .steA1A0 _ _ => [.s, .z]
  | .movGToSp _ _ _ => [.s, .z]
  | .pushG _ _ => []
  | .neg _ _ => [.o, .s, .z, .c]
  | .rotR1H _ _ => [.s, .z, .c]
  | .notG _ _ => [.s, .z]
  | .ldeAbs20 _ _ _ => [.s, .z]
  | .ldeDsp20 _ _ _ => [.s, .z]
  | .ldeA1A0 _ _ => [.s, .z]
  | .movGFromSp _ _ _ => [.s, .z]
  | .movGImm _ _ => [.s, .z]
  | .popG _ _ => []
  | .shlR1H _ _ => [.s, .z, .c]
  | .shaR1H _ _ => [.o, .s, .z, .c]
  | .tstImm _ _ => [.s, .z]
  | .xorImm _ _ => [.s, .z]
  | .andGImm _ _ => [.s, .z]
  | .orGImm _ _ => [.s, .z]
  | .addGImm _ _ => [.o, .s, .z, .c]
  | .subGImm _ _ => [.o, .s, .z, .c]
  | .adcImm _ _ => [.o, .s, .z, .c]
  | .sbbImm _ _ => [.o, .s, .z, .c]
  | .cmpGImm _ _ => [.o, .s, .z, .c]
  | .divxSrc _ _ => [.o]
  | .rolc _ _ => [.s, .z, .c]
  | .rorc _ _ => [.s, .z, .c]
  | .divuSrc _ _ => [.o]
  | .divSrc _ _ => [.o]
  | .adcf _ _ => [.o, .s, .z, .c]
  | .abs _ _ => [.o, .s, .z, .c]
  | .mulSrc _ _ _ => []
  | .xchg _ _ _ => []
  | .ldcSrc _ c => if c = .flg then allFlags else []
  | .stcDest _ _ => []
  | .movDirToR0L _ _ => []
  | .movDirFromR0L _ _ => []
  | .jmpiA _ => []
  | .jsriA _ => []
  | .jmpiW _ => []
  | .jsriW _ => []
  | .muluImm _ _ => []
  | .mulImm _ _ => []
  | .extsB _ => [.s, .z]
  | .pusha _ => []
  | .ldipl _ => []
  | .addQSp _ => [.o, .s, .z, .c]
  | .stcPc _ => []
  | .jcnd16 _ _ => []
  | .bmcndC _ => [.c]
  | .divuImm _ => [.o]
  | .divImm _ => [.o]
  | .pushGImm _ => []
  | .divxImm _ => [.o]
  | .daddBReg => [.s, .z, .c]
  | .daddWReg => [.s, .z, .c]
  | .dsubBReg => [.s, .z, .c]
  | .dsubWReg => [.s, .z, .c]
  | .dadcBReg => [.s, .z, .c]
  | .dadcWReg => [.s, .z, .c]
  | .dsbbBReg => [.s, .z, .c]
  | .dsbbWReg => [.s, .z, .c]
  | .smovf _ => []
  | .smovb _ => []
  | .sstr _ => []
  | .addGSp _ => [.o, .s, .z, .c]
  | .daddBImm _ => [.s, .z, .c]
  | .daddWImm _ => [.s, .z, .c]
  | .dsubBImm _ => [.s, .z, .c]
  | .dsubWImm _ => [.s, .z, .c]
  | .dadcBImm _ => [.s, .z, .c]
  | .dadcWImm _ => [.s, .z, .c]
  | .dsbbBImm _ => [.s, .z, .c]
  | .dsbbWImm _ => [.s, .z, .c]
  | .ldctx _ _ => []
  | .stctx _ _ => []
  | .rmpa _ => [.o]
  | .enter _ => []
  | .exitd => []
  | .extsW => []
  | .wait => []
  | .btstc _ => [.z, .c]
  | .btsts _ => [.z, .c]
  | .bmcnd _ _ => []
  | .bntst _ => [.z, .c]
  | .band _ => [.c]
  | .bnand _ => [.c]
  | .bor _ => [.c]
  | .bnor _ => [.c]
  | .bclrG _ => []
  | .bsetG _ => []
  | .bnotG _ => []
  | .btstG _ => [.z, .c]
  | .bxor _ => [.c]
  | .bnxor _ => [.c]
  | .tstSrc _ _ _ => [.s, .z]
  | .pushBS _ => []
  | .addBSImm _ _ => [.o, .s, .z, .c]
  | .xorSrc _ _ _ => [.s, .z]
  | .subBSImm _ _ => [.o, .s, .z, .c]
  | .andGSrc _ _ _ => [.s, .z]
  | .popBS _ => []
  | .andBSImm _ _ => [.s, .z]
  | .orGSrc _ _ _ => [.s, .z]
  | .orBSImm _ _ => [.s, .z]
  | .addGSrc _ _ _ => [.o, .s, .z, .c]
  | .movWSImmAn _ _ => [.s, .z]
  | .incB _ => [.s, .z]
  | .subGSrc _ _ _ => [.o, .s, .z, .c]
  | .decB _ => [.s, .z]
  | .adcSrc _ _ _ => [.o, .s, .z, .c]
  | .incW _ => [.s, .z]
  | .movBZ _ => [.s, .z]
  | .sbbSrc _ _ _ => [.o, .s, .z, .c]
  | .notBS _ => [.s, .z]
  | .cmpGSrc _ _ _ => [.o, .s, .z, .c]
  | .pushWS _ => []
  | .movBSImm _ _ => [.s, .z]
  | .addQ _ _ _ => [.o, .s, .z, .c]
  | .stz _ _ => []
  | .cmpQ _ _ _ => [.o, .s, .z, .c]
  | .popWS _ => []
  | .stnz _ _ => []
  | .movQ _ _ _ => [.s, .z]
  | .stzx _ _ _ => []
  | .rotImm _ _ _ => [.s, .z, .c]
  | .movBSImmAn _ _ => [.s, .z]
  | .cmpBSImm _ _ => [.o, .s, .z, .c]
  | .shlImm _ _ _ => [.s, .z, .c]
  | .ldcImm _ c => if c = .flg then allFlags else []
  | .shlLR1H _ => [.s, .z, .c]
  | .shaLR1H _ => [.s, .z, .c]
  | .pushc _ => []
  | .popc c => if c = .flg then allFlags else []
  | .fset f => [f]
  | .fclr f => [f]
  | .mova _ _ => []
  | .shlLImm _ _ => [.s, .z, .c]
  | .shaLImm _ _ => [.s, .z, .c]
  | .int n => if n.toNat ≤ 31 then [.u, .i, .d] else [.i, .d]
  | .pushm _ => []
  | .popm _ => []
  | .jmps _ => []
  | .jsrs _ => []
  | .shaImm _ _ _ => [.o, .s, .z, .c]
  | .decW _ => [.s, .z]
  | .rts => []
  | .jmpW _ => []
  | .jsrW _ => []
  | .into => if s.flg.o then [.u, .i, .d] else []
  | .adjnz _ _ _ _ => []
  | .sbjnz _ _ _ _ => []
  | .reit => allFlags
  | .jmpA _ => []
  | .jsrA _ => []
  | .jmpB _ => []
  | .und => [.u, .i, .d]
  | .ldintb _ => []

/-- The instructions that may change IPL (R49, R51). -/
def changesIpl : Instr → Bool
  | .ldipl _ => true
  | .reit => true
  | .ldcImm _ c => c == .flg
  | .ldcSrc _ c => c == .flg
  | .popc c => c == .flg
  | _ => false

/-- The instructions that write `pc` themselves (R31); `SMOVB`, `SMOVF`, `SSTR` and `RMPA` are among them because
`pc` stays at them between iterations (R480). -/
def writesPc : Instr → Bool
  | .jmpS _ | .jmpB _ | .jmpW _ | .jmpA _ | .jcnd8 _ _ | .jcnd16 _ _ | .jmpiA _ | .jmpiW _ | .jmps _ => true
  | .jsrW _ | .jsrA _ | .jsriA _ | .jsriW _ | .jsrs _ | .rts | .exitd | .adjnz _ _ _ _ | .sbjnz _ _ _ _ => true
  | .brk | .int _ | .into | .und | .reit => true
  | .smovf _ | .smovb _ | .sstr _ | .rmpa _ => true
  | _ => false

/-! States. -/

/-- Nothing keeps the next step from running the next instruction: no reset, no wait, no instruction in progress, and
the boundary is shadowed or no request is acceptable. -/
def State.ready (s : State) : Prop :=
  s.resetReq = false ∧ s.waiting = false ∧ s.resume = none ∧ (s.intShadow = true ∨ (chooseHw s).1 = none)

/-- The state at a boundary that accepts no request: a shadow is used up and a match that arises in it stays pending
(R556, R558); otherwise the draws of the acceptance test are counted. -/
def State.passed (s : State) : State :=
  if s.intShadow then { s with intShadow := false, matchReq := s.matchPending } else { s with draws := (chooseHw s).2 }

/-- The state in which `step` runs the instruction it has fetched: the boundary is passed and the draws of the fetch are
counted. -/
def State.fetched (s : State) : State := { s.passed with draws := (fetch s.passed).2 }

/-- The bytes `step` decodes. -/
def State.code (s : State) : List Byte := (fetch s.passed).1

/-- The instruction is one the spec assigns and every byte it stores to can be stored to: it then completes. -/
abbrev State.allows (s : State) (i : Instr) : Prop :=
  i.wellFormed = true ∧ ∀ a ∈ storedTo i s, s.writable a = true

/-- A read of the byte has no side effect and gives the stored byte: the address is not 00000h, not in the hole, not in
the SFR area, and no interrupt control register's. -/
abbrev State.plain (s : State) (a : Addr) : Prop :=
  a ≠ 0#20 ∧ s.isHole a = false ∧ s.isSfr a = false ∧ icrAt s.sources a = none

/-- The 16-bit word stored at an address (R73). -/
def wordAt (m : List Host.Cell) (a : Addr) : Word := memGet m (a + 1).toNat ++ memGet m a.toNat

/-- What a location holds: a register, or the bytes stored in memory. -/
def State.valueAt (s : State) : (z : Size) → Loc → BitVec (Size.bits z)
  | .b, .data r => s.dreg8 r
  | .w, .data r => s.dreg16 r
  | .b, .addr a => loByte (s.areg a)
  | .w, .addr a => s.areg a
  | .b, .mem a => memGet s.mem a.toNat
  | .w, .mem a => wordAt s.mem a

/-- The trace of the SFR area after an access of `n` bytes: one entry more, with the value zero-extended, if one of the
bytes is in the area, and otherwise as before (R631). -/
def traced (d : Direction) (a : Addr) (n : Nat) {w : Nat} (v : BitVec w) (s t : State) : Prop :=
  ((∃ k < n, s.isSfr (a + BitVec.ofNat 20 k) = true) →
    t.sfrTrace = { addr := a, width := n, value := v.setWidth 32, dir := d } :: s.sfrTrace) ∧
  ((∀ k < n, s.isSfr (a + BitVec.ofNat 20 k) = false) → t.sfrTrace = s.sfrTrace)

/-- The access reads or writes the byte. -/
def SfrAccess.covers (e : SfrAccess) (a : Addr) : Prop := (a - e.addr).toNat < e.width

/-! Flags as R13 and R14 state them. -/

/-- S is the most significant bit of the result and Z tells whether it is 0 (R13). -/
def showsSZ {w : Nat} (r : BitVec w) (f : Flg) : Prop := f.s = r.msb ∧ f.z = decide (r = 0#w)

/-- O tells whether a signed result lies outside `w` bits (R14). -/
def showsO (w : Nat) (x : Int) (f : Flg) : Prop :=
  f.o = decide (x > ((2 ^ (w - 1) : Nat) : Int) - 1 ∨ x < -((2 ^ (w - 1) : Nat) : Int))

/-- The flags of `d + v + c` (R14). -/
def showsSum {w : Nat} (d v : BitVec w) (c : Bool) (f : Flg) : Prop :=
  f.c = decide (2 ^ w - 1 < d.toNat + v.toNat + c.toNat) ∧ showsO w (d.toInt + v.toInt + c.toNat) f ∧
    showsSZ (d + v + BitVec.ofNat w c.toNat) f

/-- The flags of `d - v - b`, with C set when nothing is borrowed (R14). -/
def showsDiff {w : Nat} (d v : BitVec w) (b : Bool) (f : Flg) : Prop :=
  f.c = decide (v.toNat + b.toNat ≤ d.toNat) ∧ showsO w (d.toInt - v.toInt - b.toNat) f ∧
    showsSZ (d - v - BitVec.ofNat w b.toNat) f

/-! Two operands. -/

/-- The operands of a two-operand instruction: the size, the source value, the destination, and the state after the
source is read (R330 item 2). -/
structure TwoOperands where
  z : Size
  v : BitVec (Size.bits z)
  l : Loc
  s : State

/-- `#IMM,dest`. -/
def immTo (v : Imm) (dst : Operand) (s : State) : TwoOperands := ⟨v.size, immVal v, s.loc dst, s⟩

/-- `#IMM4,dest`: the immediate is `IMM4` sign-extended (R154). -/
def quickTo (z : Size) (v : BitVec 4) (dst : Operand) (s : State) : TwoOperands := ⟨z, v.signExtend _, s.loc dst, s⟩

/-- `src,dest`. -/
def srcTo (z : Size) (src dst : Operand) (s : State) : TwoOperands :=
  ⟨z, (readLoc z (s.loc src) s).1, s.loc dst, (readLoc z (s.loc src) s).2⟩

/-- Short `#IMM8,dest`. -/
def shortImmTo (v : BitVec 8) (dst : ShortDest) (s : State) : TwoOperands := ⟨.b, v, s.shortLoc dst, s⟩

/-- Short `src,R0L/R0H`. -/
def shortSrcTo (h : Half) (src : ShortSrc) (s : State) : TwoOperands :=
  ⟨.b, (readLoc .b (s.shortSrcLoc h src) s).1, .data (halfDreg h), (readLoc .b (s.shortSrcLoc h src) s).2⟩

/-- The instruction relates, at the width R102 gives, the old destination, the source and the new destination: 16 bits
with the source zero-extended for `.B` with A0 or A1, and the operation size otherwise. -/
def TwoOperands.leaves (p : TwoOperands) (t : State) (rel : (w : Nat) → BitVec w → BitVec w → BitVec w → Prop) : Prop :=
  match p with
  | ⟨.b, v, .addr a, s⟩ => rel 16 (s.areg a) (v.setWidth 16) (t.areg a)
  | ⟨z, v, l, s⟩ => rel (Size.bits z) (readLoc z l s).1 v (t.valueAt z l)

/-! Shifts in closed form. -/

/-- The value after `n` positions, and the bit that left last (R304, R306, R310). -/
def shifted (k : ShiftKind) (left : Bool) (n : Nat) {w : Nat} (d : BitVec w) : BitVec w × Bool :=
  match k, left with
  | .rotate, true => (d.rotateLeft n, d.getLsbD (w - n))
  | .rotate, false => (d.rotateRight n, d.getLsbD (n - 1))
  | .arith, true => (d <<< n, d.getLsbD (w - n))
  | .arith, false => (d.sshiftRight n, d.getLsbD (n - 1))
  | .logical, true => (d <<< n, d.getLsbD (w - n))
  | .logical, false => (d >>> n, d.getLsbD (n - 1))

/-- The flags after a shift at `.B` or `.W`: S and Z of the result, C the bit that left last, and for `SHA` O whether
the most significant bit changed (R304, R306, R310). -/
def showsShift (k : ShiftKind) (left : Bool) (n : Nat) {w : Nat} (d : BitVec w) (f : Flg) : Prop :=
  showsSZ (shifted k left n d).1 f ∧ f.c = (shifted k left n d).2 ∧
    (k = .arith → f.o = ((shifted k left n d).1.msb != d.msb))

/-! Bits. -/

/-- The bit at a bit location, and the state after the read (R117). -/
def bitRead (l : BitLoc) (s : State) : Bool × State :=
  match l with
  | .reg r n => ((s.reg16 r).getLsbD n, s)
  | .mem a n => ((readByte a s).1.getLsbD n, (readByte a s).2)

/-- The register or the byte holds what was read, with the one bit replaced (R81, R117). -/
def bitWritten (l : BitLoc) (b : Bool) (s t : State) : Prop :=
  match l with
  | .reg r n => ∀ k < 16, (t.reg16 r).getLsbD k = if k = n then b else (s.reg16 r).getLsbD k
  | .mem a n => ∀ k < 8, (memGet t.mem a.toNat).getLsbD k = if k = n then b else (readByte a s).1.getLsbD k

/-! Products, register lists and control registers. -/

/-- The double-width value at the place of a product (the table of R405). -/
def State.productAt (s : State) : (z : Size) → Loc → BitVec (Size.bits z + Size.bits z)
  | .b, .data .d2 => s.bank.r1
  | .b, .data _ => s.bank.r0
  | .b, .addr _ => s.bank.a0
  | .b, .mem a => wordAt s.mem a
  | .w, .data .d1 => s.bank.r3 ++ s.bank.r1
  | .w, .data _ => s.bank.r2 ++ s.bank.r0
  | .w, .addr _ => s.bank.a1 ++ s.bank.a0
  | .w, .mem a => wordAt s.mem (a + 2) ++ wordAt s.mem a

/-- The registers whose bit is set, R0 first: bit 0 of the list for R0 and bit 7 for FB (R224, R516). -/
def listed (list : BitVec 8) : List CtxReg := (ctxRegs.zipIdx.filter fun p => list.getLsbD p.2).map Prod.fst

/-- The list read from its other end: `PUSHM` has bit 7 for R0 and bit 0 for FB (R231). -/
def mirrored (list : BitVec 8) : BitVec 8 := list.reverse

/-- What a control register holds of the 16 bits written to it (R491, R37, R50). -/
def cregBits : CReg → Word → Word
  | .intbh, v => v &&& 0x000F#16
  | .flg, v => v &&& 0x70FF#16
  | _, v => v

/-- The stack pointer that U selected in an earlier state. -/
def State.spOf (t s : State) : Word := if s.flg.u then t.usp else t.isp

/-- A PC-relative target: the integer sum modulo 2^20 (R440). -/
def relTarget (pc : Addr) (base : Nat) (disp : Int) : Addr := BitVec.ofInt 20 (pc.toNat + base + disp)

/-- The frame of an interrupt at a stack pointer (R562). -/
def framed (m : List Host.Cell) (sp : Word) (f : Flg) (ret : Addr) : Prop :=
  memGet m (near sp).toNat = ret.extractLsb' 0 8 ∧ memGet m (near sp + 1).toNat = ret.extractLsb' 8 8 ∧
    memGet m (near (sp + 2)).toNat = f.toWord.extractLsb' 0 8 ∧
    memGet m (near (sp + 2) + 1).toNat = f.toWord.extractLsb' 12 4 ++ ret.extractLsb' 16 4

/-- The bytes of a frame at a stack pointer. -/
def frameBytes (sp : Word) : List Addr := sizeAt .w (near sp) ++ sizeAt .w (near (sp + 2))

/-- The interrupt sequence took `s` to `t` (R560): the frame lies on the stack pointer the new U selects, I and D and,
where the source says so, U are cleared, IPL is the new level or unchanged, `pc` holds the vector's low 20 bits, and every
other register is as before. -/
def entered (vec ret : Addr) (clearU : Bool) (level : Option (BitVec 3)) (s t : State) : Prop :=
  framed t.mem ((if clearU then s.isp else s.sp) - 4) s.flg ret ∧
    t.sp = (if clearU then s.isp else s.sp) - 4 ∧
    t.flg = { s.flg with i := false, d := false, u := s.flg.u && !clearU, ipl := level.getD s.flg.ipl } ∧
    t.waiting = false ∧
    t.bank0 = s.bank0 ∧ t.bank1 = s.bank1 ∧ t.sb = s.sb ∧ t.intb = s.intb ∧
    (if clearU || !s.flg.u then t.usp = s.usp else t.isp = s.isp) ∧
    ((∀ a ∈ [vec, vec + 1, vec + 2, vec + 3], s.plain a) → t.pc = memVector t.mem vec)

/-- A hardware interrupt took `s` to `t` (R561): the sequence with U cleared, and beyond the registers it leaves every
byte outside the frame, the product and the address-match registers, with nothing waiting or in progress. -/
def accepted (vec ret : Addr) (level : Option (BitVec 3)) (s t : State) : Prop :=
  entered vec ret true level s t ∧ t.resume = none ∧ t.product = s.product ∧ t.matchRegs = s.matchRegs ∧
    ∀ a : Addr, a ∉ pushedBytes 2 s.isp → memGet t.mem a.toNat = memGet s.mem a.toNat

/-- A return address on the stack: its low, middle and high byte from the stack pointer up (R451). -/
def returnAt (m : List Host.Cell) (sp : Word) (ret : Addr) : Prop :=
  memGet m (near sp).toNat = ret.extractLsb' 0 8 ∧ memGet m (near sp + 1).toNat = ret.extractLsb' 8 8 ∧
    memGet m (near (sp + 2)).toNat = 0#4 ++ ret.extractLsb' 16 4

/-- The bytes of a return address at a stack pointer. -/
def returnBytes (sp : Word) : List Addr := [near sp, near sp + 1, near (sp + 2)]

/-- The registers of a list lie as words at ascending addresses from a stack pointer (R224, R231). -/
def spilled (s : State) (m : List Host.Cell) (sp : Word) (regs : List CtxReg) : Prop :=
  ∀ j r, regs[j]? = some r → wordAt m (near (sp + 2 * BitVec.ofNat 16 j)) = s.ctx r

/-- The bytes of `n` words at ascending addresses from a stack pointer. -/
def spillBytes (n : Nat) (sp : Word) : List Addr :=
  (List.range n).flatMap fun j => sizeAt .w (near (sp + 2 * BitVec.ofNat 16 j))

/-- `2 n` as a word. -/
def twice (n : Nat) : Word := BitVec.ofNat 16 (2 * n)

/-! Division (R398). -/

/-- The dividend: R0 at `.B`, R2R0 at `.W`. -/
def State.dividend (s : State) : (z : Size) → BitVec (Size.bits z + Size.bits z)
  | .b => s.bank.r0
  | .w => s.bank.r2 ++ s.bank.r0

/-- Where the quotient goes. -/
def State.quotient (s : State) : (z : Size) → BitVec (Size.bits z)
  | .b => s.dreg8 .d0
  | .w => s.bank.r0

/-- Where the remainder goes. -/
def State.remainder (s : State) : (z : Size) → BitVec (Size.bits z)
  | .b => s.dreg8 .d1
  | .w => s.bank.r2

/-- A signed number of `w` bits. -/
def fits (w : Nat) (x : Int) : Prop := -((2 ^ (w - 1) : Nat) : Int) ≤ x ∧ x ≤ ((2 ^ (w - 1) : Nat) : Int) - 1

/-- O is cleared and quotient and remainder are the given numbers. -/
def dividesTo (z : Size) (q r : Int) (t : State) : Prop :=
  t.flg.o = false ∧ (t.quotient z).toInt = q ∧ (t.remainder z).toInt = r

/-- `DIVU`: unsigned quotient and remainder, or O. -/
def dividedU (z : Size) (v : BitVec (Size.bits z)) (s t : State) : Prop :=
  if v.toNat ≠ 0 ∧ (s.dividend z).toNat / v.toNat < 2 ^ Size.bits z then
    t.flg.o = false ∧ (t.quotient z).toNat = (s.dividend z).toNat / v.toNat ∧
      (t.remainder z).toNat = (s.dividend z).toNat % v.toNat
  else t.flg.o = true

/-- `DIV`: the quotient truncated towards zero, or O. -/
def dividedT (z : Size) (v : BitVec (Size.bits z)) (s t : State) : Prop :=
  (v.toInt ≠ 0 ∧ fits (Size.bits z) ((s.dividend z).toInt.tdiv v.toInt) →
    dividesTo z ((s.dividend z).toInt.tdiv v.toInt) ((s.dividend z).toInt.tmod v.toInt) t) ∧
  (¬(v.toInt ≠ 0 ∧ fits (Size.bits z) ((s.dividend z).toInt.tdiv v.toInt)) → t.flg.o = true)

/-- `DIVX`: the quotient rounded down, or O. -/
def dividedF (z : Size) (v : BitVec (Size.bits z)) (s t : State) : Prop :=
  (v.toInt ≠ 0 ∧ fits (Size.bits z) ((s.dividend z).toInt.fdiv v.toInt) →
    dividesTo z ((s.dividend z).toInt.fdiv v.toInt) ((s.dividend z).toInt.fmod v.toInt) t) ∧
  (¬(v.toInt ≠ 0 ∧ fits (Size.bits z) ((s.dividend z).toInt.fdiv v.toInt)) → t.flg.o = true)

/-! Decimal arithmetic (R381). -/

/-- The BCD sum of two BCD patterns of `n` digits and a carry, with its flags. -/
def decSum (n : Nat) {w : Nat} (d v : BitVec w) (c : Bool) (r : BitVec w) (f : Flg) : Prop :=
  ∀ x y, decValue n d.toNat = some x → decValue n v.toNat = some y →
    decValue n r.toNat = some ((x + y + c.toNat) % 10 ^ n) ∧ f.c = decide (10 ^ n - 1 < x + y + c.toNat) ∧ showsSZ r f

/-- The BCD difference, with C set when nothing is borrowed. -/
def decDiff (n : Nat) {w : Nat} (d v : BitVec w) (b : Bool) (r : BitVec w) (f : Flg) : Prop :=
  ∀ x y, decValue n d.toNat = some x → decValue n v.toNat = some y →
    decValue n r.toNat = some ((x + 10 ^ n + 10 ^ n - y - b.toNat) % 10 ^ n) ∧ f.c = decide (y + b.toNat ≤ x) ∧
      showsSZ r f

/-! Interruptible instructions (R480). -/

/-- After an iteration `pc` is `next` when it was the last one, and stays otherwise. -/
def iterated (last : Bool) (s t : State) : Prop := t.pc = if last then s.pc + 2 else s.pc

/-- Bytes of an element. -/
def elem (z : Size) : Word := BitVec.ofNat 16 (sizeBytes z)

/-- The accumulator of `RMPA`: R0 at `.B` and R2R0 at `.W` (R410). -/
def State.accumulator (s : State) (z : Size) : BitVec (Size.bits z + Size.bits z) := s.dividend z

/-! What families leave. -/

/-- A store to the far data area: the value, and flags from it, or from all 16 bits of A0 or A1 at `.B` (R236). -/
def farStored (z : Size) (src : Operand) (a : Addr) (s t : State) : Prop :=
  t.valueAt z (.mem a) = (readLoc z (s.loc src) s).1 ∧
    match z, src with
    | .b, .addr r => showsSZ (s.areg r) t.flg
    | z, src => showsSZ (readLoc z (s.loc src) s).1 t.flg

/-- One nibble of the source went to one nibble of the destination, whose other nibble stays (R218). -/
def nibbleMoved (k : Dir) (v d r : Byte) : Prop :=
  match k with
  | .hh => r.extractLsb' 4 4 = v.extractLsb' 4 4 ∧ r.extractLsb' 0 4 = d.extractLsb' 0 4
  | .hl => r.extractLsb' 0 4 = v.extractLsb' 4 4 ∧ r.extractLsb' 4 4 = d.extractLsb' 4 4
  | .lh => r.extractLsb' 4 4 = v.extractLsb' 0 4 ∧ r.extractLsb' 0 4 = d.extractLsb' 0 4
  | .ll => r.extractLsb' 0 4 = v.extractLsb' 0 4 ∧ r.extractLsb' 4 4 = d.extractLsb' 4 4

/-- A value was pushed: SP is lower by its size and the value lies there (R104). -/
def pushed (z : Size) (v : BitVec (Size.bits z)) (s t : State) : Prop :=
  t.sp = s.sp - elem z ∧ t.valueAt z (.mem (near t.sp)) = v

/-- A shift or rotate by `n` positions at `.B` or `.W` (R300). -/
def shiftedTo (k : ShiftKind) (left : Bool) (n : Nat) (z : Size) (l : Loc) (s t : State) : Prop :=
  t.valueAt z l = (shifted k left n (readLoc z l s).1).1 ∧ showsShift k left n (readLoc z l s).1 t.flg

/-- A shift of a pair by `n` positions (R308, R312). -/
def pairShifted (k : ShiftKind) (left : Bool) (n : Nat) (p : DPair) (s t : State) : Prop :=
  t.pair (dpairPair p) = (shifted k left n (s.pair (dpairPair p))).1 ∧ t.flg.s = (t.pair (dpairPair p)).msb ∧
    t.flg.o = s.flg.o

/-- The byte at the location became the sign-extended word there, R0 for R0L and R1 for R1L (R349). -/
def extended (l : Loc) (s t : State) : Prop :=
  match l with
  | .data .d2 => t.bank.r1 = (s.dreg8 .d2).signExtend 16 ∧ showsSZ t.bank.r1 t.flg
  | .data _ => t.bank.r0 = (s.dreg8 .d0).signExtend 16 ∧ showsSZ t.bank.r0 t.flg
  | .addr _ => True
  | .mem a => wordAt t.mem a = (readByte a s).1.signExtend 16 ∧ showsSZ (wordAt t.mem a) t.flg

/-- The 16-bit source of `JMPI.W` and `JSRI.W` (R448). -/
def jumpWord (src : JmpW) (s : State) : Word :=
  match src with
  | .reg r => s.reg16 r
  | .mem e => (readWord (s.jmpEa e) s).1

/-- The 20-bit source of `JMPI.A` and `JSRI.A`: the low 20 bits of a pair or of three bytes (R449). -/
def jumpAddress (src : JmpA) (s : State) : Addr :=
  match src with
  | .pair p => (s.pair p).extractLsb' 0 20
  | .mem e => (read24 (s.jmpEa e) s).1.extractLsb' 0 20

/-- A return address was pushed (R451). -/
def called (ret : Addr) (s t : State) : Prop := t.sp = s.sp - 3 ∧ returnAt t.mem t.sp ret

/-! Codes and boundaries. -/

/-- The pairs of first and second byte that R159 to R166 and R491 leave unassigned (R170). -/
def unassignedCode (b c : Byte) : Bool :=
  let hi := c.toNat / 16
  let lo := c.toNat % 16
  match b.toNat with
  | 0x7F => true
  | 0xF7 => true
  | 0x7A => hi / 4 == 1 || hi == 8
  | 0x7B => hi / 4 == 1 || hi == 8
  | 0x7C => hi == 7 || hi == 13 || (hi == 15 && 4 ≤ lo)
  | 0x7D => hi == 6 || hi == 7 || hi == 8 || (hi == 10 && 8 ≤ lo) ||
      (hi == 12 && !(lo == 8 || lo == 9 || lo == 10 || lo == 12 || lo == 13 || lo == 14)) ||
      (hi == 13 && (lo == 11 || lo == 15)) || (hi == 15 && 4 ≤ lo)
  | 0x7E => 14 ≤ hi
  | 0xEB => hi < 8 && ((lo == 6 || lo == 7) || (lo == 1 && 4 ≤ hi) || (hi == 0 && (lo == 0 || lo == 2 || lo == 3)) ||
      (6 ≤ hi && 8 ≤ lo))
  | _ => false

/-- The instructions after which the boundary is shadowed (R58, R558). -/
def setsShadow : Instr → Bool
  | .ldcImm _ _ => true
  | .ldcSrc _ _ => true
  | .popc _ => true
  | .ldintb _ => true
  | _ => false

/-- The instructions whose change of I counts from the next instruction (R559). -/
def delaysI : Instr → Bool
  | .fclr _ => true
  | .fset _ => true
  | i => setsShadow i

/-- A request of a source is acceptable to the present I flag and IPL (R553). -/
def State.acceptable (s : State) (x : Source) : Prop :=
  s.judgeI = true ∧ x.ir = true ∧ s.flg.ipl.toNat < x.ilvl.toNat

/-- The source at a position outranks every other source with a property: a higher level, or an equal level and an
earlier place in `HW_PRIORITY` (R570, D15). -/
def outranks (l : List Source) (p : Source → Prop) (k : Nat) (x : Source) : Prop :=
  ∀ j y, l[j]? = some y → p y → y.ilvl.toNat < x.ilvl.toNat ∨ (y.ilvl = x.ilvl ∧ k ≤ j)

/-- No window of R613 or R615 is open: the acceptance test sees the present levels and request bits. -/
def State.settled (s : State) : Prop := s.iplOld = [] ∧ ∀ x ∈ s.sources, x.old = []

/-- A level the acceptance test may see as IPL: the present one, or an earlier one whose window is open (R613). -/
def State.mayJudgeIpl (s : State) (l : BitVec 3) : Prop := l = s.flg.ipl ∨ ∃ w ∈ s.iplOld, 0 < w.2 ∧ w.1 = l

/-- A level the acceptance test may see for a source: the present one, or an earlier one whose window is open (R613,
R615). -/
def Source.mayLevel (x : Source) (l : BitVec 3) : Prop := l = x.ilvl ∨ ∃ w ∈ x.old, 0 < w.left ∧ w.level = l

/-- A request bit the acceptance test may see for a source (R615). -/
def Source.mayShow (x : Source) (ir : Bool) : Prop := ir = x.ir ∨ ∃ w ∈ x.old, 0 < w.left ∧ w.ir = ir

/-- The boundaries at which the IPL before an instruction may still be judged, none for 0 (R613). -/
def opensIpl : Instr → Nat
  | .reit => 2
  | .ldipl _ => 3
  | .ldcImm _ c => if c = .flg then 3 else 0
  | .ldcSrc _ c => if c = .flg then 3 else 0
  | .popc c => if c = .flg then 3 else 0
  | _ => 0

/-- The windows of R613 one boundary later. -/
def laterIpl (l : List (BitVec 3 × Nat)) : List (BitVec 3 × Nat) :=
  (l.filter fun w => decide (1 < w.2)).map fun w => (w.1, w.2 - 1)

/-- The windows of a source that are still open where the next instruction starts (R615). -/
def openWindows (l : List Window) : List Window := l.filter fun w => decide (1 < w.left)

/-- The windows of a source one boundary later. -/
def laterWindows (l : List Window) : List Window :=
  (openWindows l).map fun w => { w with left := w.left - 1 }

/-- A boundary at which requests are examined: no reset, and no shadow but while waiting (R558). -/
def State.examined (s : State) : Prop := s.resetReq = false ∧ (s.intShadow = false ∨ s.waiting = true)

/-- The invariant of the machine: memory in its canonical form; only an interruptible instruction in progress, and
none while waiting; stale queue bytes only near `pc`; windows no longer than R613 and R615 make them. -/
structure Consistent (s : State) : Prop where
  memory : memWf s.mem
  progress : ∀ i, s.resume = some i → interruptible i = true ∧ s.waiting = false
  queue : ∀ c ∈ s.queue, (BitVec.ofNat 20 c.1 - s.pc).toNat < 12
  iplWindows : ∀ w ∈ s.iplOld, w.2 ≤ Config.iplWindow
  levelWindows : ∀ x ∈ s.sources, ∀ w ∈ x.old, w.left ≤ s.product.storeWindow + 1

end Sys2Proof.Machine
end

