-- ==== Sys2Proof/Certificates/Slice0/Obligations.lean ====
section
/-! DEFINITION. The statements for the provers. Each docstring names the rules of spec/ that the statement formalises;
a clause that rests on a choice of the model names the log entry. -/

section
open Sys2Proof Sys2Proof.Machine

/-! Encoding. -/

/-- Decoding the bytes of a well-formed instruction gives it back and leaves the rest (R140 to R171); `SBJNZ` and
`LDINTB` are second spellings (R192, R193). -/
def Obligations.DecodeEncode : Prop :=
  ∀ (i : Instr) (rest : List Byte), i.wellFormed = true → i.isAlias = false →
    decode (encode i ++ rest) = .ok (i, rest)

/-- What the decoder accepts is the encoding of a well-formed instruction: no bit of it is ignored, and reserved codes
are refused (R155, R171). -/
def Obligations.DecodeSound : Prop :=
  ∀ (bs : List Byte) (i : Instr) (rest : List Byte), decode bs = .ok (i, rest) →
    i.wellFormed = true ∧ i.isAlias = false ∧ bs = encode i ++ rest

/-- The two second spellings: the words of `SBJNZ` are `ADJNZ`'s (R193, R458), those of `LDINTB` are two `LDC`
(R192), which together do what the macro does (R517). -/
def Obligations.AliasWords : Prop :=
  (∀ sz v dst d rest, (Instr.sbjnz sz v dst d).wellFormed = true →
    decode (encode (.sbjnz sz v dst d) ++ rest) = .ok (.adjnz sz v dst d, rest)) ∧
  (∀ v rest, decode (encode (.ldintb v) ++ rest) =
    .ok (.ldcImm (0#12 ++ v.extractLsb' 16 4) .intbh, encode (.ldcImm (v.extractLsb' 0 16) .intbl) ++ rest)) ∧
  (∀ v s, ∃ t u m, exec (.ldcImm (0#12 ++ v.extractLsb' 16 4) .intbh) s = .next t ∧
    exec (.ldcImm (v.extractLsb' 0 16) .intbl) t = .next u ∧ exec (.ldintb v) s = .next m ∧
    u.intb = v ∧ m.intb = v ∧ u.pc = s.pc + 8 ∧ m.pc = s.pc + 8)

/-- The decoder calls a code unassigned by its first and second byte, exactly where R159 to R166 and R491 leave
the pair open, and a step that fetches one, or a code that is assigned with an operand the instruction does not
accept, is refused (R170, R171, D19). That the condition byte of `BMCnd dest` outside the fourteen, which R159 and R170
leave unassigned too, is sorted under the reserved codes is the model's choice (log 19). -/
def Obligations.UnassignedRefused : Prop :=
  (∀ (b c : Byte) (rest : List Byte),
    decode (b :: c :: rest) = .error .unassigned ↔ unassignedCode b c = true) ∧
  (∀ (s : State) (b c : Byte) (rest : List Byte), s.ready → s.code = b :: c :: rest → unassignedCode b c = true →
    step s = .refused .unassignedEncoding) ∧
  (∀ (s : State) (b c : Byte) (rest : List Byte) (e : DecodeError), s.ready → s.code = b :: c :: rest →
    decode s.code = .error e → unassignedCode b c = false → step s = .refused .reservedEncoding)

/-- Words of the spec's examples decode to the instructions they stand for (R202, R236, R273, R310, R335, R447, R457,
R512, R516, R218). In the word of `LDCTX` the order of its operands, abs16 before abs20, is the model's choice (PRESUMED,
log 39; G10). -/
def Obligations.DecodeWords : Prop :=
  decode [0x77#8, 0x46#8, 0x02#8, 0x00#8] = .ok (.addGImm (.w 2#16) (.mem (.ind .a0)), []) ∧
  decode [0x75#8, 0xC2#8, 0xFF#8, 0xFF#8] = .ok (.movGImm (.w 0xFFFF#16) (.data .d2), []) ∧
  decode [0x7E#8, 0x9F#8, 0x52#8, 0x00#8] = .ok (.bsetG (.abs16 0x52#16), []) ∧
  decode [0xEB#8, 0x20#8, 0x0F#8, 0x00#8] = .ok (.ldcImm 15#16 .intbh, []) ∧
  decode [0x75#8, 0x10#8, 0x00#8, 0x00#8, 0x01#8] = .ok (.steDsp20 .w (.data .d0) 0x10000#20, []) ∧
  decode [0x7C#8, 0xF0#8, 0x00#8, 0x04#8, 0x00#8, 0x80#8, 0x0F#8] = .ok (.ldctx 0x400#16 0xF8000#20, []) ∧
  decode [0xF9#8, 0xF0#8, 0xFE#8] = .ok (.adjnz .w 15#4 (.data .d0) 0xFE#8, []) ∧
  decode [0xE8#8, 0xA0#8] = .ok (.shlImm .b 10#4 (.data .d0), []) ∧
  decode [0x7C#8, 0x96#8] = .ok (.movDirFromR0L .hl (.mem (.ind .a0)), []) ∧
  decode [0x7D#8, 0xCA#8, 0x05#8] = .ok (.jcnd16 .ge 5#8, [])

/-! The step. -/

/-- A step at a boundary where no request is accepted runs the instruction at `pc` and completes it: an interruptible
one that has not moved on is in progress, any other has completed (R480, R549, R613, R630); and a step goes on with an
instruction in progress. The model's choices here: D counts as it is when the instruction, or the iteration, starts
(log 29, D28), and `pc` stays at an instruction in progress between its iterations (log 27, D26). -/
def Obligations.StepRuns : Prop :=
  (∀ s i rest, s.ready → decode s.code = .ok (i, rest) →
    (∀ e, exec i s.fetched.started = .fault e → step s = .fault e) ∧
    (∀ t, exec i s.fetched.started = .next t →
      step s = .next (if interruptible i = true ∧ t.pc = s.pc then { t with resume := some i }
        else { t.tick with stepReq := t.stepReq || s.flg.d }))) ∧
  (∀ s i, s.resume = some i → s.resetReq = false → s.waiting = false → s.intShadow = false → (chooseHw s).1 = none →
    (∀ e, exec i { s with resume := none, prevI := none, draws := (chooseHw s).2 } = .fault e → step s = .fault e) ∧
    (∀ t, exec i { s with resume := none, prevI := none, draws := (chooseHw s).2 } = .next t →
      step s = .next (if interruptible i = true ∧ t.pc = s.pc then { t with resume := some i }
        else { t.tick with stepReq := t.stepReq || s.flg.d })))

/-- The eight bytes a step decodes lie at ascending addresses from `pc`; each is the stored byte, or an earlier byte
that the instruction queue still holds (R76, R128); an unassigned address reads as an open value (D12) and is left
out. -/
def Obligations.FetchBytes : Prop :=
  ∀ (s : State) (k : Nat), k < 8 → s.isHole (s.pc + BitVec.ofNat 20 k) = false →
    ∃ b, s.code[k]? = some b ∧
      (b = s.peek (s.pc + BitVec.ofNat 20 k) ∨ ((s.pc + BitVec.ofNat 20 k).toNat, b) ∈ s.queue)

/-- The registers after reset (R62). Bank 1, which the rule leaves open, is the model's choice (log 1) and is not stated
here. -/
def Obligations.ResetState : Prop :=
  State.reset.bank0 = Bank.zero ∧ State.reset.sb = 0#16 ∧ State.reset.usp = 0#16 ∧ State.reset.isp = 0#16 ∧
  State.reset.intb = 0#20 ∧ State.reset.flg.toWord = 0#16 ∧
  State.reset.pc = memVector State.reset.mem 0xFFFFC#20

/-- The hidden state after reset as the spec decides it (R63, R601, D2), and the invariant there (the invariant is the
model's: log 2, 18, 20 and 27). -/
def Obligations.ResetConsistent : Prop :=
  State.reset.intShadow = true ∧ State.reset.waiting = false ∧ State.reset.queue = [] ∧ State.reset.resume = none ∧
  Consistent State.reset

/-- Every step keeps the invariant. Its form is the model's choice: memory in its canonical form (log 2); an instruction
in progress only an interruptible one, and none while waiting (log 27; R480); stale queue bytes within twelve bytes of
`pc` (log 18; R128); windows no longer than the model makes them (log 20; R613, R615). -/
def Obligations.StepConsistent : Prop :=
  ∀ s t, Consistent s → step s = .next t → Consistent t

/-- What the environment does between two steps (R555). It raises a request, asserts NMI, the watchdog timer, DBC where
the product has it, or reset, changes the byte an address of the SFR area holds, or an address-match register (R550).
And whatever it does, it keeps the invariant, every CPU register, memory outside the SFR area, every level, and every
request. That it acts between two steps, and within one only as `readByte` of the SFR area lets it, is the model's choice
(log 15), and so is that it withdraws nothing (log 51). -/
def Obligations.EnvironmentAgent : Prop :=
  (∀ e s, (Consistent s → Consistent (env e s)) ∧
    (env e s).bank0 = s.bank0 ∧ (env e s).bank1 = s.bank1 ∧ (env e s).sb = s.sb ∧ (env e s).usp = s.usp ∧
    (env e s).isp = s.isp ∧ (env e s).intb = s.intb ∧ (env e s).pc = s.pc ∧ (env e s).flg = s.flg ∧
    (∀ a : Addr, s.isSfr a = false → memGet (env e s).mem a.toNat = memGet s.mem a.toNat) ∧
    (s.nmiReq = true → (env e s).nmiReq = true) ∧ (s.wdtReq = true → (env e s).wdtReq = true) ∧
    (s.dbcReq = true → (env e s).dbcReq = true) ∧ (env e s).stepReq = s.stepReq ∧ (env e s).matchReq = s.matchReq ∧
    (∀ (k : Nat) (x : Source), s.sources[k]? = some x →
      ∃ y : Source, (env e s).sources[k]? = some y ∧ y.ilvl = x.ilvl ∧ y.num = x.num ∧ y.icr = x.icr ∧
        (x.ir = true → y.ir = true))) ∧
  (∀ k s x, s.sources[k]? = some x → ∃ y : Source, (env (.request k) s).sources[k]? = some y ∧ y.ir = true) ∧
  (∀ s, (env .nmi s).nmiReq = true ∧ (env .watchdog s).wdtReq = true ∧ (env .reset s).resetReq = true) ∧
  (∀ s, (s.product.dbc = true → (env .dbc s).dbcReq = true) ∧ (s.product.dbc = false → env .dbc s = s)) ∧
  (∀ a v s, s.isSfr a = true → memGet (env (.sfr a v) s).mem a.toNat = v ∧
    ∀ b : Addr, b ≠ a → memGet (env (.sfr a v) s).mem b.toNat = memGet s.mem b.toNat) ∧
  (∀ k m s, k < s.matchRegs.length → (env (.matchReg k m) s).matchRegs[k]? = some m)

/-! Every instruction. -/

/-- An ill-formed term is refused; an instruction whose stores all land where a byte can be stored completes; any other
stops at one of its stores into ROM or into an unmapped address (R171, D12). -/
def Obligations.Outcomes : Prop :=
  ∀ i s, (i.wellFormed = false → exec i s = .refused .reservedEncoding) ∧
    (s.allows i → ∃ t, exec i s = .next t) ∧
    (i.wellFormed = true → ¬ s.allows i → ∃ a ∈ storedTo i s,
      (s.isRom a = true ∧ exec i s = .fault (.romWrite a)) ∨
      (s.isRom a = false ∧ s.isHole a = true ∧ exec i s = .fault (.unmappedWrite a)))

/-- A completed instruction leaves every byte of memory it does not store to; the address stored to is the one its
meaning computes (R75, R81, R101). -/
def Obligations.MemoryFrame : Prop :=
  ∀ i s t, exec i s = .next t → ∀ a : Addr, a ∉ storedTo i s → memGet t.mem a.toNat = memGet s.mem a.toNat

/-- A completed instruction leaves every register of the selected bank it does not name as a destination, every
unbanked register likewise, and the other bank altogether (R22, R26). -/
def Obligations.RegisterFrame : Prop :=
  ∀ i s t, exec i s = .next t →
    (∀ n, n ∉ changedRegs i s → t.regIn s.flg.b n = s.regIn s.flg.b n) ∧ t.bankNo (!s.flg.b) = s.bankNo (!s.flg.b)

/-- R51: a flag that is not listed for an instruction keeps its value; and IPL changes by `LDIPL`, `LDC` and `POPC` to
FLG and `REIT` only, among the instructions (R49). -/
def Obligations.FlagFrame : Prop :=
  ∀ i s t, exec i s = .next t →
    (∀ f, f ∉ changedFlags i s → t.flg.get f = s.flg.get f) ∧ (changesIpl i = false → t.flg.ipl = s.flg.ipl)

/-- An instruction that does not write `pc` ends with `pc <- next`, where `next` is `pc` plus the length of the encoded
bytes (R32); the manual writes PC + n for `BRK`, `INT` and `JSR.W`. That `next` wraps past FFFFFh is the model's choice
(log 10, D5). The string instructions and `RMPA`, whose `pc` stays between iterations, are in `StringIteration` and
`RmpaIteration`. -/
def Obligations.NextPc : Prop :=
  (∀ i : Instr, (encode i).length = i.length) ∧
  (∀ i s t, exec i s = .next t → writesPc i = false → t.pc = s.pc + BitVec.ofNat 20 i.length) ∧
  Instr.brk.length = 1 ∧ (∀ n, (Instr.int n).length = 2) ∧ (∀ d, (Instr.jsrW d).length = 3)

/-- A completed instruction leaves the product, the pending special requests and the address-match registers, changes
the level of a source only by a store to its interrupt control register, and never changes the number or the register
address of a source (R552, R555, R557). The model's choices (log 15): no special request arises and no address-match
register changes within an instruction; a peripheral's request bit is set within it only by a store to its interrupt
control register or, where that register is in the SFR area, when the instruction reads it, which the trace shows. A request bit
is cleared within it only by a store to its register or by a read that covers 00000h (R555, R557), which the trace shows
where 00000h is in the SFR area. -/
def Obligations.EnvironmentFrame : Prop :=
  ∀ i s t, exec i s = .next t →
    t.product = s.product ∧ t.matchRegs = s.matchRegs ∧ t.nmiReq = s.nmiReq ∧ t.wdtReq = s.wdtReq ∧
    t.dbcReq = s.dbcReq ∧ t.stepReq = s.stepReq ∧ t.matchReq = s.matchReq ∧ t.resetReq = s.resetReq ∧
    t.sources.length = s.sources.length ∧
    ∃ added : List SfrAccess, t.sfrTrace = added ++ s.sfrTrace ∧
    (∀ (k : Nat) (x : Source), s.sources[k]? = some x →
      ∃ y : Source, t.sources[k]? = some y ∧ y.num = x.num ∧ y.icr = x.icr ∧
        (x.icr ∉ storedTo i s → y.ilvl = x.ilvl ∧
          (s.isSfr x.icr = true → (∀ e ∈ added, e.dir = .read → ¬ e.covers x.icr) → y.ir = true → x.ir = true) ∧
          (s.isSfr 0#20 = true → (∀ e ∈ added, e.dir = .read → ¬ e.covers 0#20) → x.ir = true → y.ir = true)))

/-- What the boundary after an instruction sees: it is shadowed after `LDC` and `POPC` only, whatever their destination
(R58, R558); the I flag judged is the old one after `FCLR`, `FSET`, `POPC` and `LDC` and the new one otherwise (R559);
an instruction that started with D = 1 requests a single step when it completes (R549; that D counts as it is at the
start is the model's choice, log 29, D28); an address match that arose in a shadow stays pending (R556). A completed
instruction opens a window on the old IPL exactly if it is `REIT` (2 boundaries) or `LDIPL`, `LDC` or `POPC` to FLG (3),
and one on the old level and request bit of a source exactly if it stores to its interrupt control register; every other
window is one boundary shorter (R613, R615). Between the iterations of an instruction the windows on IPL stand as they
were, and those on a source that had their last boundary before it are over. The model's choices there (log 20): the
length of the source's window, and that a `POPC` which turns I on ends those windows. -/
def Obligations.BoundaryAfter : Prop :=
  ∀ s i rest t, s.ready → decode s.code = .ok (i, rest) → step s = .next t →
    t.intShadow = setsShadow i ∧
    (t.waiting = false → t.resume = none → t.judgeI = if delaysI i then s.flg.i else t.flg.i) ∧
    (t.resume = none → t.stepReq = (s.stepReq || s.flg.d)) ∧
    t.matchReq = (if s.intShadow then s.matchPending else s.matchReq) ∧
    (t.resume = none →
      t.iplOld = (if opensIpl i = 0 then [] else [(s.flg.ipl, opensIpl i)]) ++ laterIpl s.iplOld ∧
      ∀ (k : Nat) (x : Source), s.sources[k]? = some x → ∃ y : Source, t.sources[k]? = some y ∧
        (x.icr ∈ storedTo i s.fetched.started → ∃ ir, y.old =
          { level := x.ilvl, ir := ir, left := s.product.storeWindow } :: laterWindows x.old) ∧
        (x.icr ∉ storedTo i s.fetched.started → y.old =
          if i = .popc .flg ∧ s.flg.i = false ∧ t.flg.i = true then [] else laterWindows x.old)) ∧
    (t.resume ≠ none → t.iplOld = s.iplOld ∧
      ∀ (k : Nat) (x : Source), s.sources[k]? = some x → ∃ y : Source, t.sources[k]? = some y ∧
        (x.icr ∉ storedTo i s.fetched.started → y.old = openWindows x.old))

/-! Memory, addresses, stack, conditions. -/

/-- Memory is little-endian at every width, and a byte read at N + 1 after a word written at N gives its high byte (R73,
R74, R75, R77, R78). Reads are stated where the address shows the stored byte. Every access that touches the SFR area
leaves one entry in the trace, and no other does (R84, R631; its form is log 54). Any address may be accessed at any
width: that nothing needs alignment and that a datum goes on past 0FFFFh and wraps past FFFFFh only is the model's choice
(log 9, D3, D4; log 10, D5). -/
def Obligations.MemoryReadWrite : Prop :=
  (∀ a s, s.plain a → readByte a s = (memGet s.mem a.toNat, s)) ∧
  (∀ a s, s.plain a → s.plain (a + 1) → readWord a s = (memGet s.mem (a + 1).toNat ++ memGet s.mem a.toNat, s)) ∧
  (∀ a s, s.plain a → s.plain (a + 1) → s.plain (a + 2) →
    read24 a s = (memGet s.mem (a + 2).toNat ++ (memGet s.mem (a + 1).toNat ++ memGet s.mem a.toNat), s)) ∧
  (∀ a s, s.plain a → s.plain (a + 1) → s.plain (a + 2) → s.plain (a + 2 + 1) →
    read32 a s = (wordAt s.mem (a + 2) ++ wordAt s.mem a, s)) ∧
  (∀ a s, traced .read a 1 (readByte a s).1 s (readByte a s).2 ∧ traced .read a 2 (readWord a s).1 s (readWord a s).2 ∧
    traced .read a 3 (read24 a s).1 s (read24 a s).2 ∧ traced .read a 4 (read32 a s).1 s (read32 a s).2) ∧
  (∀ k a v s, s.writable a = true → ∃ t, writeByte k a v s = .next t ∧ memGet t.mem a.toNat = v ∧
    traced .write a 1 v s t ∧ ∀ b : Addr, b ≠ a → memGet t.mem b.toNat = memGet s.mem b.toNat) ∧
  (∀ k a v s, s.writable a = true → s.writable (a + 1) = true → ∃ t, writeWord k a v s = .next t ∧
    memGet t.mem a.toNat = v.extractLsb' 0 8 ∧ memGet t.mem (a + 1).toNat = v.extractLsb' 8 8 ∧
    (s.plain (a + 1) → (readByte (a + 1) t).1 = v.extractLsb' 8 8) ∧ traced .write a 2 v s t ∧
    ∀ b : Addr, b ≠ a → b ≠ a + 1 → memGet t.mem b.toNat = memGet s.mem b.toNat) ∧
  (∀ k a v s, s.writable a = true → s.writable (a + 1) = true → s.writable (a + 2) = true →
    ∃ t, write24 k a v s = .next t ∧ memGet t.mem a.toNat = v.extractLsb' 0 8 ∧
      memGet t.mem (a + 1).toNat = v.extractLsb' 8 8 ∧ memGet t.mem (a + 2).toNat = v.extractLsb' 16 8 ∧
      traced .write a 3 v s t) ∧
  (∀ k a v s, s.writable a = true → s.writable (a + 1) = true → s.writable (a + 2) = true →
    s.writable (a + 2 + 1) = true → ∃ t, write32 k a v s = .next t ∧
      wordAt t.mem a = v.extractLsb' 0 16 ∧ wordAt t.mem (a + 2) = v.extractLsb' 16 16 ∧ traced .write a 4 v s t)

/-- The stack primitives of R104 on the stack pointer that U selects (R36). -/
def Obligations.StackPrimitives : Prop :=
  (∀ s : State, s.sp = if s.flg.u then s.usp else s.isp) ∧
  (∀ v s, s.writable (near (s.sp - 1)) = true → ∃ t, push8 v s = .next t ∧ t.sp = s.sp - 1 ∧
    memGet t.mem (near t.sp).toNat = v ∧
    (∀ a : Addr, a ≠ near t.sp → memGet t.mem a.toNat = memGet s.mem a.toNat) ∧
    (if s.flg.u then t.isp = s.isp else t.usp = s.usp)) ∧
  (∀ v s, s.writable (near (s.sp - 2)) = true → s.writable (near (s.sp - 2) + 1) = true →
    ∃ t, push16 v s = .next t ∧ t.sp = s.sp - 2 ∧ wordAt t.mem (near t.sp) = v ∧
    (∀ a : Addr, a ≠ near t.sp → a ≠ near t.sp + 1 → memGet t.mem a.toNat = memGet s.mem a.toNat) ∧
    (if s.flg.u then t.isp = s.isp else t.usp = s.usp)) ∧
  (∀ s, (pop8 s).2.sp = s.sp + 1 ∧ (pop8 s).2.mem = s.mem ∧
    (s.plain (near s.sp) → (pop8 s).1 = memGet s.mem (near s.sp).toNat) ∧
    (if s.flg.u then (pop8 s).2.isp = s.isp else (pop8 s).2.usp = s.usp)) ∧
  (∀ s, (pop16 s).2.sp = s.sp + 2 ∧ (pop16 s).2.mem = s.mem ∧
    (s.plain (near s.sp) → s.plain (near s.sp + 1) → (pop16 s).1 = wordAt s.mem (near s.sp)) ∧
    (if s.flg.u then (pop16 s).2.isp = s.isp else (pop16 s).2.usp = s.usp))

/-- The effective addresses as integers: unsigned additions modulo 2^16 for A0, A1 and SB, a signed one for FB and SP,
modulo 2^20 for the far modes, and those of the indirect jumps (R92 to R98, R448). And the registers that operands name,
in the bank that B selects (R26): the halves of R0 and R1 (R22, R150), the low 8 bits of A0 and A1 at `.B` (R102), the
half of R0 that is not the destination as a short source (R153), and R0H with A0 and R0L with A1 (R207). -/
def Obligations.EffectiveAddresses : Prop :=
  ∀ s : State,
    (∀ d, s.ea (.abs16 d) = d) ∧ (∀ a, s.ea (.ind a) = s.areg a) ∧
    (∀ a d, (s.ea (.rel8 a d)).toNat = ((s.areg a).toNat + d.toNat) % 2 ^ 16) ∧
    (∀ a d, (s.ea (.rel16 a d)).toNat = ((s.areg a).toNat + d.toNat) % 2 ^ 16) ∧
    (∀ d, (s.ea (.sb8 d)).toNat = (s.sb.toNat + d.toNat) % 2 ^ 16) ∧
    (∀ d, (s.ea (.sb16 d)).toNat = (s.sb.toNat + d.toNat) % 2 ^ 16) ∧
    (∀ d, ((s.ea (.fb8 d)).toNat : Int) = (s.bank.fb.toNat + d.toInt) % 2 ^ 16) ∧
    (∀ d, ((s.spEa d).toNat : Int) = (s.sp.toNat + d.toInt) % 2 ^ 16) ∧
    (∀ d, (s.shortEa (.sb8 d)).toNat = (s.sb.toNat + d.toNat) % 2 ^ 16) ∧
    (∀ d, ((s.shortEa (.fb8 d)).toNat : Int) = (s.bank.fb.toNat + d.toInt) % 2 ^ 16) ∧
    (∀ d, s.shortEa (.abs16 d) = d) ∧
    (∀ d, (s.farDsp d).toNat = (s.bank.a0.toNat + d.toNat) % 2 ^ 20) ∧
    s.farPair.toNat = (s.bank.a1.toNat * 2 ^ 16 + s.bank.a0.toNat) % 2 ^ 20 ∧
    (∀ a d, (s.jmpEa (.rel20 a d)).toNat = ((s.areg a).toNat + d.toNat) % 2 ^ 20) ∧
    (∀ a, s.jmpEa (.ind a) = near (s.ea (.ind a))) ∧ (∀ a d, s.jmpEa (.rel8 a d) = near (s.ea (.rel8 a d))) ∧
    (∀ d, s.jmpEa (.sb8 d) = near (s.ea (.sb8 d))) ∧ (∀ d, s.jmpEa (.fb8 d) = near (s.ea (.fb8 d))) ∧
    (∀ d, s.jmpEa (.sb16 d) = near (s.ea (.sb16 d))) ∧ (∀ d, s.jmpEa (.abs16 d) = near (s.ea (.abs16 d))) ∧
    s.bank = (if s.flg.b then s.bank1 else s.bank0) ∧ s.areg .a0 = s.bank.a0 ∧ s.areg .a1 = s.bank.a1 ∧
    (∀ e, s.loc (.mem e) = .mem (near (s.ea e))) ∧ (∀ r, s.loc (.data r) = .data r) ∧
    (∀ a, s.loc (.addr a) = .addr a) ∧ (∀ m, s.shortLoc (.mem m) = .mem (near (s.shortEa m))) ∧
    s.shortLoc (.half .r0l) = .data .d0 ∧ s.shortLoc (.half .r0h) = .data .d1 ∧
    readLoc .b (.data .d0) s = (s.bank.r0.extractLsb' 0 8, s) ∧ readLoc .b (.data .d1) s = (s.bank.r0.extractLsb' 8 8, s) ∧
    readLoc .b (.data .d2) s = (s.bank.r1.extractLsb' 0 8, s) ∧ readLoc .b (.data .d3) s = (s.bank.r1.extractLsb' 8 8, s) ∧
    readLoc .w (.data .d0) s = (s.bank.r0, s) ∧ readLoc .w (.data .d1) s = (s.bank.r1, s) ∧
    readLoc .w (.data .d2) s = (s.bank.r2, s) ∧ readLoc .w (.data .d3) s = (s.bank.r3, s) ∧
    (∀ a, readLoc .b (.addr a) s = ((s.areg a).extractLsb' 0 8, s)) ∧
    (∀ a, readLoc .w (.addr a) s = (s.areg a, s)) ∧
    s.shortSrcLoc .r0l .other = .data .d1 ∧ s.shortSrcLoc .r0h .other = .data .d0 ∧
    (∀ h m, s.shortSrcLoc h (.mem m) = .mem (near (s.shortEa m))) ∧
    s.shortSrcAnLoc .a0 .other = .data .d1 ∧ s.shortSrcAnLoc .a1 .other = .data .d0 ∧
    (∀ a m, s.shortSrcAnLoc a (.mem m) = .mem (near (s.shortEa m)))

/-- The bit addresses as integers: byte `k / 8` and bit `k mod 8`, counted from the base (R110 to R114). With FB `k` is
signed and the division rounds down: that split is an inference the spec marks as its own (R115). -/
def Obligations.BitAddresses : Prop :=
  ∀ s : State,
    (∀ r n, s.bitLoc (.reg r n) = .reg r n.toNat) ∧
    (∀ k, s.bitLoc (.abs16 k) = .mem (BitVec.ofNat 20 (k.toNat / 8)) (k.toNat % 8)) ∧
    (∀ a, s.bitLoc (.ind a) = .mem (BitVec.ofNat 20 ((s.areg a).toNat / 8)) ((s.areg a).toNat % 8)) ∧
    (∀ a b, s.bitLoc (.rel8 a b) =
      .mem (BitVec.ofNat 20 ((b.toNat + (s.areg a).toNat / 8) % 2 ^ 16)) ((s.areg a).toNat % 8)) ∧
    (∀ a b, s.bitLoc (.rel16 a b) =
      .mem (BitVec.ofNat 20 ((b.toNat + (s.areg a).toNat / 8) % 2 ^ 16)) ((s.areg a).toNat % 8)) ∧
    (∀ k, s.bitLoc (.sb8 k) = .mem (BitVec.ofNat 20 ((s.sb.toNat + k.toNat / 8) % 2 ^ 16)) (k.toNat % 8)) ∧
    (∀ k, s.bitLoc (.sb16 k) = .mem (BitVec.ofNat 20 ((s.sb.toNat + k.toNat / 8) % 2 ^ 16)) (k.toNat % 8)) ∧
    (∀ k, s.bitLoc (.fb8 k) =
      .mem (BitVec.ofInt 20 ((s.bank.fb.toNat + k.toInt / 8) % 2 ^ 16)) (k.toInt % 8).toNat) ∧
    (∀ n d, s.shortBit n d = .mem (BitVec.ofNat 20 ((s.sb.toNat + d.toNat) % 2 ^ 16)) n.toNat)

/-- R441: what each condition tests, and what it says of `dest` and `src` after `CMP src,dest`. -/
def Obligations.Conditions : Prop :=
  ∀ (f : Flg),
    (condHolds .geu f = true ↔ f.c = true) ∧ (condHolds .gtu f = true ↔ f.c = true ∧ f.z = false) ∧
    (condHolds .eq f = true ↔ f.z = true) ∧ (condHolds .n f = true ↔ f.s = true) ∧
    (condHolds .ltu f = true ↔ f.c = false) ∧ (condHolds .leu f = true ↔ ¬(f.c = true ∧ f.z = false)) ∧
    (condHolds .ne f = true ↔ f.z = false) ∧ (condHolds .pz f = true ↔ f.s = false) ∧
    (condHolds .le f = true ↔ f.s ≠ f.o ∨ f.z = true) ∧ (condHolds .o f = true ↔ f.o = true) ∧
    (condHolds .ge f = true ↔ f.s = f.o) ∧ (condHolds .gt f = true ↔ f.s = f.o ∧ f.z = false) ∧
    (condHolds .no f = true ↔ f.o = false) ∧ (condHolds .lt f = true ↔ f.s ≠ f.o) ∧
    ∀ (w : Nat) (d v : BitVec w), 0 < w → showsDiff d v false f →
      (condHolds .geu f = true ↔ v.toNat ≤ d.toNat) ∧ (condHolds .gtu f = true ↔ v.toNat < d.toNat) ∧
      (condHolds .eq f = true ↔ d = v) ∧ (condHolds .n f = true ↔ (d - v).toInt < 0) ∧
      (condHolds .pz f = true ↔ 0 ≤ (d - v).toInt) ∧ (condHolds .ltu f = true ↔ d.toNat < v.toNat) ∧
      (condHolds .o f = true ↔ d.toInt - v.toInt ≠ (d - v).toInt) ∧
      (condHolds .no f = true ↔ d.toInt - v.toInt = (d - v).toInt) ∧
      (condHolds .leu f = true ↔ d.toNat ≤ v.toNat) ∧ (condHolds .ne f = true ↔ d ≠ v) ∧
      (condHolds .ge f = true ↔ v.toInt ≤ d.toInt) ∧ (condHolds .gt f = true ↔ v.toInt < d.toInt) ∧
      (condHolds .le f = true ↔ d.toInt ≤ v.toInt) ∧ (condHolds .lt f = true ↔ d.toInt < v.toInt)

/-! Interrupts. -/

/-- The interrupt sequence with the frame it leaves; every register it does not name and every byte outside the frame
stay (R560, R562). The places of the two 4-bit fields in the byte at
SP + 3 are the model's choice (PRESUMED, log 33; the spec's decision D32). -/
def Obligations.IntSeqResult : Prop :=
  ∀ vec ret clearU level s,
    (∀ a ∈ pushedBytes 2 (if clearU then s.isp else s.sp), s.writable a = true) →
    ∃ t, intSeq vec ret clearU level s = .next t ∧ entered vec ret clearU level s t ∧ t.queue = [] ∧
      ∀ a : Addr, a ∉ pushedBytes 2 (if clearU then s.isp else s.sp) → memGet t.mem a.toNat = memGet s.mem a.toNat

/-- The four software interrupts enter the sequence with their vectors and the address after the instruction, without a
new level (R490, R505, R508, R532); `BRK` goes through entry 0 of the variable table when its own vector is all FFh
(log 28, D27); `INTO` with O = 0 is passed over. The places of the two 4-bit fields of the frame are the model's choice
(PRESUMED, log 33, D32). -/
def Obligations.SoftwareInterrupts : Prop :=
  (∀ s, s.allows .und → ∃ t, exec .und s = .next t ∧ entered 0xFFFDC#20 (s.pc + 1) true none s t) ∧
  (∀ s, s.flg.o = true → s.allows .into →
    ∃ t, exec .into s = .next t ∧ entered 0xFFFE0#20 (s.pc + 1) true none s t) ∧
  (∀ s, s.flg.o = false → exec .into s = .next (s.advance 1)) ∧
  (∀ n s, s.allows (.int n) → ∃ t, exec (.int n) s = .next t ∧
    entered (s.intb + BitVec.ofNat 20 (4 * n.toNat)) (s.pc + 2) (decide (n.toNat ≤ 31)) none s t) ∧
  (∀ s, s.allows .brk → ∃ t vec, exec .brk s = .next t ∧ (vec = 0xFFFE4#20 ∨ vec = s.intb) ∧
    entered vec (s.pc + 1) true none s t ∧
    ((∀ a ∈ [0xFFFE4#20, 0xFFFE5#20, 0xFFFE6#20, 0xFFFE7#20], s.plain a) →
      (vec = s.intb ↔ s.intb = 0xFFFE4#20 ∨
        ∀ a ∈ [0xFFFE4#20, 0xFFFE5#20, 0xFFFE6#20, 0xFFFE7#20], memGet s.mem a.toNat = 0xFF#8)))

/-- `REIT` pops four bytes from the stack pointer selected at its start and restores the `pc` and the FLG they hold, the
reserved bits of FLG ignored (R491, R524), so that a frame gives back what it saved (R562). The model's choices: the
places of the two 4-bit fields of the frame (PRESUMED, log 33, D32), and the reserved bits of FLG, which read 0 (log 8,
D6). -/
def Obligations.ReitResult : Prop :=
  ∀ s, ∃ t, exec .reit s = .next t ∧ t.spOf s = s.sp + 4 ∧
    ((∀ a ∈ frameBytes s.sp, s.plain a) →
      t.pc = (memGet s.mem (near (s.sp + 2) + 1).toNat).extractLsb' 0 4 ++ wordAt s.mem (near s.sp) ∧
      t.flg.toWord = wordAt s.mem (near (s.sp + 2)) &&& 0x70FF#16 ∧
      ∀ f ret, framed s.mem s.sp f ret → t.pc = ret ∧ t.flg = f)

/-- A routine that leaves the frame and the stack pointer as it found them resumes the program exactly: `REIT` undoes
the interrupt sequence (R562, R563), whose frame has its two 4-bit fields where the model chose (PRESUMED, log 33,
D32). -/
def Obligations.ReitUndoesIntSeq : Prop :=
  ∀ vec ret clearU level s t u,
    intSeq vec ret clearU level s = .next t → u.sp = t.sp →
    (∀ a ∈ frameBytes t.sp, u.plain a ∧ memGet u.mem a.toNat = memGet t.mem a.toNat) →
    ∃ v, exec .reit u = .next v ∧ v.pc = ret ∧ v.flg = s.flg ∧ v.spOf u = if clearU then s.isp else s.sp

/-- After `WAIT`, and until a request is acceptable or a reset comes, a step changes nothing but the model's draw
counter (R537; log 5). -/
def Obligations.WaitFrozen : Prop :=
  ∀ s, s.waiting = true → s.resetReq = false → (chooseHw s).1 = none → ∃ n, step s = .next { s with draws := n }

/-- What an examination point accepts: NMI, DBC, watchdog, peripheral, single step, address match, in this order (R570;
log 34, D33), an address match also when it arose earlier and is still pending (R556); and the peripheral request the
acceptance test chooses once no window is open is the one that is acceptable and outranks every acceptable one: none
with I = 0, a level not above IPL or a clear request bit (R553, R570). Inside windows (R613, R615) a source is chosen
only with I = 1 and only on request bits and levels that are the present ones or those of an open window; and one that
is acceptable on all of them is not passed over. Which of them is seen is open (log 20, D34). The model's choices for an
address match (log 30, D29): it is taken before the matched instruction, none arises while waiting or between iterations,
and one that is pending stays whatever happens to its register. -/
def Obligations.RequestChoice : Prop :=
  (∀ s, s.settled → ∀ k,
    ((choosePeripheral s).1 = some k ↔
      ∃ x, s.sources[k]? = some x ∧ s.acceptable x ∧ outranks s.sources s.acceptable k x)) ∧
  (∀ s k, (choosePeripheral s).1 = some k → s.judgeI = true ∧ ∃ x, s.sources[k]? = some x ∧ x.mayShow true ∧
    ∃ l p, x.mayLevel l ∧ s.mayJudgeIpl p ∧ p.toNat < l.toNat) ∧
  (∀ s, ∀ x ∈ s.sources, s.judgeI = true → ¬ x.mayShow false →
    (∀ l p, x.mayLevel l → s.mayJudgeIpl p → p.toNat < l.toNat) → (choosePeripheral s).1 ≠ none) ∧
  ∀ s,
    (s.nmiReq = true → (chooseHw s).1 = some .nmi) ∧
    (s.nmiReq = false → s.dbcReq = true → s.product.dbc = true → (chooseHw s).1 = some .dbc) ∧
    (s.nmiReq = false → (s.dbcReq && s.product.dbc) = false → s.wdtReq = true → (chooseHw s).1 = some .watchdog) ∧
    (s.nmiReq = false → (s.dbcReq && s.product.dbc) = false → s.wdtReq = false →
      (∀ k, (choosePeripheral s).1 = some k → (chooseHw s).1 = some (.peripheral k)) ∧
      ((choosePeripheral s).1 = none →
        (s.stepReq = true → (chooseHw s).1 = some .step) ∧
        (s.stepReq = false → ((chooseHw s).1 = some .addressMatch ↔ s.product.addressMatch = true ∧
          (s.matchReq = true ∨ (s.waiting = false ∧ s.resume = none ∧
            ∃ m ∈ s.matchRegs, m.enabled = true ∧ m.addr = s.pc))))))

/-- An accepted special interrupt enters its sequence with the address of the next instruction and its level, and its
request is consumed; the other special requests, and an address match that arises here and is not accepted, stay pending
(R541, R546 to R550, R554, R556, R561, R563, R570). Beyond FLG, the stack pointer and `pc` no register changes, and no
byte outside the frame. The saved address of an address match is open (R550). The places of
the two 4-bit fields of the frame are the model's choice (PRESUMED, log 33, D32). -/
def Obligations.AcceptSpecial : Prop :=
  ∀ s, s.examined → (∀ a ∈ pushedBytes 2 s.isp, s.writable a = true) →
    ((chooseHw s).1 = some .nmi → ∃ t, step s = .next t ∧ accepted 0xFFFF8#20 s.pc (some 7#3) s t ∧
      t.nmiReq = false ∧ t.wdtReq = s.wdtReq ∧ t.dbcReq = s.dbcReq ∧ t.stepReq = s.stepReq ∧
      t.matchReq = s.matchPending) ∧
    ((chooseHw s).1 = some .dbc → ∃ t, step s = .next t ∧ accepted 0xFFFF4#20 s.pc none s t ∧
      t.dbcReq = false ∧ t.nmiReq = s.nmiReq ∧ t.wdtReq = s.wdtReq ∧ t.stepReq = s.stepReq ∧
      t.matchReq = s.matchPending) ∧
    ((chooseHw s).1 = some .watchdog → ∃ t, step s = .next t ∧ accepted 0xFFFF0#20 s.pc (some 7#3) s t ∧
      t.wdtReq = false ∧ t.nmiReq = s.nmiReq ∧ t.dbcReq = s.dbcReq ∧ t.stepReq = s.stepReq ∧
      t.matchReq = s.matchPending) ∧
    ((chooseHw s).1 = some .step → ∃ t, step s = .next t ∧ accepted 0xFFFEC#20 s.pc none s t ∧
      t.stepReq = false ∧ t.nmiReq = s.nmiReq ∧ t.wdtReq = s.wdtReq ∧ t.dbcReq = s.dbcReq ∧
      t.matchReq = s.matchPending) ∧
    ((chooseHw s).1 = some .addressMatch → ∃ t ret, step s = .next t ∧ accepted 0xFFFE8#20 ret none s t ∧
      t.matchReq = false ∧ t.nmiReq = s.nmiReq ∧ t.wdtReq = s.wdtReq ∧ t.dbcReq = s.dbcReq ∧ t.stepReq = s.stepReq)

/-- An accepted peripheral interrupt enters the routine of its number with the address of the next instruction, IPL
becomes its level, its request bit is cleared and every other source keeps its own; a single step and an address match
stay pending (R541, R556, R561, R563, R570). Beyond FLG, the stack pointer and `pc` no register changes, and no byte
outside the frame. The model's choices: IPL takes the source's present level, also where an
earlier one was judged inside a window (DEDUCED, log 52); the places of the two 4-bit fields of the frame (PRESUMED,
log 33, D32). -/
def Obligations.AcceptPeripheral : Prop :=
  ∀ s k x, s.examined → (∀ a ∈ pushedBytes 2 s.isp, s.writable a = true ∧ icrAt s.sources a = none) →
    (chooseHw s).1 = some (.peripheral k) → s.sources[k]? = some x →
    ∃ t, step s = .next t ∧ accepted (s.intb + BitVec.ofNat 20 (4 * x.num.toNat)) s.pc (some x.ilvl) s t ∧
      t.stepReq = s.stepReq ∧ t.matchReq = s.matchPending ∧
      ((∀ a ∈ [s.intb + BitVec.ofNat 20 (4 * x.num.toNat), s.intb + BitVec.ofNat 20 (4 * x.num.toNat) + 1,
          s.intb + BitVec.ofNat 20 (4 * x.num.toNat) + 2, s.intb + BitVec.ofNat 20 (4 * x.num.toNat) + 3],
          a ≠ 0#20 ∧ icrAt s.sources a = none) →
        ∀ (j : Nat) (y : Source), s.sources[j]? = some y →
          ∃ z : Source, t.sources[j]? = some z ∧ z.ilvl = y.ilvl ∧ z.ir = if j = k then false else y.ir)

/-- Reset in front of everything: the step after RESET is asserted puts every register and the hidden state as R62 and
R63 say, saves nothing, and leaves what lies above RAM; RAM, SFR area, bank 1 and requests are then open (R545, R570,
R600, R601). That the unassigned bytes between RAM and ROM stay too is the model's choice (log 49). -/
def Obligations.HardReset : Prop :=
  ∀ s, s.resetReq = true → ∃ t, step s = .next t ∧ t.bank0 = Bank.zero ∧ t.sb = 0#16 ∧ t.usp = 0#16 ∧ t.isp = 0#16 ∧
    t.intb = 0#20 ∧ t.flg.toWord = 0#16 ∧ t.pc = memVector t.mem 0xFFFFC#20 ∧ t.intShadow = true ∧ t.waiting = false ∧
    t.queue = [] ∧ t.resume = none ∧ t.resetReq = false ∧ t.product = s.product ∧
    ∀ a : Addr, s.product.ramTop.toNat < a.toNat → memGet t.mem a.toNat = memGet s.mem a.toNat

/-- A read of address 00000h clears the request bit of the source with the highest priority among those that request
and have a level above 0, and of no other (R82, R557). A read of an interrupt control register shows its level and its
request bit, and any other read leaves both. A store to an interrupt control register sets the level from bits 2 to 0
and the request bit from bit 3, which is cleared for certain by a `MOV` (R552, R555, R616); other sources keep theirs.
The model's choices: IR is bit 3 of the register (PRESUMED, log 16), a read of it may find a request that the
environment has just raised (log 15, 16), the read of 00000h clears for certain (log 17), and what a store that is no
`MOV` may leave in IR (log 21). -/
def Obligations.RequestBits : Prop :=
  (∀ (s : State) (k : Nat) (x : Source), s.sources[k]? = some x →
    ∃ y : Source, (readByte 0#20 s).2.sources[k]? = some y ∧ y.ilvl = x.ilvl ∧
    (x.ir = true ∧ 0 < x.ilvl.toNat ∧ outranks s.sources (fun z => z.ir = true ∧ 0 < z.ilvl.toNat) k x → y.ir = false) ∧
    (¬(x.ir = true ∧ 0 < x.ilvl.toNat ∧ outranks s.sources (fun z => z.ir = true ∧ 0 < z.ilvl.toNat) k x) →
      y.ir = x.ir)) ∧
  (∀ a s, a ≠ 0#20 → ∀ (k : Nat) (x : Source), s.sources[k]? = some x →
    ∃ y : Source, (readByte a s).2.sources[k]? = some y ∧ y.ilvl = x.ilvl ∧ y.num = x.num ∧ y.icr = x.icr ∧
      (x.icr ≠ a → y.ir = x.ir) ∧ (x.ir = true → y.ir = true)) ∧
  (∀ a s x y, a ≠ 0#20 → s.isHole a = false → icrAt s.sources a = some x → icrAt (readByte a s).2.sources a = some y →
    (readByte a s).1.extractLsb' 0 3 = x.ilvl ∧ (readByte a s).1.getLsbD 3 = y.ir) ∧
  (∀ k a v s t, writeByte k a v s = .next t → ∀ (j : Nat) (x : Source), s.sources[j]? = some x →
    ∃ y : Source, t.sources[j]? = some y ∧
      (x.icr = a → y.ilvl = v.extractLsb' 0 3 ∧ (v.getLsbD 3 = true → y.ir = true) ∧
        (v.getLsbD 3 = false → y.ir = true → k = .other ∧ x.ir = true)) ∧
      (x.icr ≠ a → y.ilvl = x.ilvl ∧ y.ir = x.ir))

/-! Transfers. -/

/-- The twelve forms of `MOV` (R201 to R212): the destination holds the source, zero-extended to 16 bits for `.B` with
A0 or A1, and S and Z follow the value written; that they follow all 16 bits there is the model's choice (log 13,
D9). -/
def Obligations.MovResult : Prop :=
  (∀ h m s, s.allows (.movBSHalfDest h m) → ∃ t, exec (.movBSHalfDest h m) s = .next t ∧
    TwoOperands.leaves ⟨.b, s.dreg8 (halfDreg h), .mem (near (s.shortEa m)), s⟩ t
      fun _ _ v r => r = v ∧ showsSZ r t.flg) ∧
  (∀ h src s, s.allows (.movBSSrcHalf h src) → ∃ t, exec (.movBSSrcHalf h src) s = .next t ∧
    (shortSrcTo h src s).leaves t fun _ _ v r => r = v ∧ showsSZ r t.flg) ∧
  (∀ a src s, s.allows (.movBSSrcAn a src) → ∃ t, exec (.movBSSrcAn a src) s = .next t ∧
    TwoOperands.leaves ⟨.b, (readLoc .b (s.shortSrcAnLoc a src) s).1, .addr a, s⟩ t
      fun _ _ v r => r = v ∧ showsSZ r t.flg) ∧
  (∀ sz src dst s, s.allows (.movGSrc sz src dst) → ∃ t, exec (.movGSrc sz src dst) s = .next t ∧
    (srcTo sz src dst s).leaves t fun _ _ v r => r = v ∧ showsSZ r t.flg) ∧
  (∀ v dst s, s.allows (.movGImm v dst) → ∃ t, exec (.movGImm v dst) s = .next t ∧
    (immTo v dst s).leaves t fun _ _ v r => r = v ∧ showsSZ r t.flg) ∧
  (∀ sz v dst s, s.allows (.movQ sz v dst) → ∃ t, exec (.movQ sz v dst) s = .next t ∧
    (quickTo sz v dst s).leaves t fun _ _ v r => r = v ∧ showsSZ r t.flg) ∧
  (∀ v a s, ∃ t, exec (.movWSImmAn v a) s = .next t ∧ t.areg a = v ∧ showsSZ v t.flg) ∧
  (∀ v a s, ∃ t, exec (.movBSImmAn v a) s = .next t ∧ t.areg a = 0#8 ++ v ∧ showsSZ (0#8 ++ v) t.flg) ∧
  (∀ v dst s, s.allows (.movBSImm v dst) → ∃ t, exec (.movBSImm v dst) s = .next t ∧
    (shortImmTo v dst s).leaves t fun _ _ v r => r = v ∧ showsSZ r t.flg) ∧
  (∀ dst s, s.allows (.movBZ dst) → ∃ t, exec (.movBZ dst) s = .next t ∧
    t.valueAt .b (s.shortLoc dst) = 0#8 ∧ t.flg.s = false ∧ t.flg.z = true) ∧
  (∀ sz d dst s, s.allows (.movGFromSp sz d dst) → ∃ t, exec (.movGFromSp sz d dst) s = .next t ∧
    TwoOperands.leaves ⟨sz, (readMem sz (near (s.spEa d)) s).1, s.loc dst, s⟩ t
      fun _ _ v r => r = v ∧ showsSZ r t.flg) ∧
  (∀ sz src d s, s.allows (.movGToSp sz src d) → ∃ t, exec (.movGToSp sz src d) s = .next t ∧
    t.valueAt sz (.mem (near (s.spEa d))) = (readLoc sz (s.loc src) s).1 ∧
    showsSZ (readLoc sz (s.loc src) s).1 t.flg)

/-- `LDE` and `STE` (R234, R236). `STE.B` from A0 or A1 takes its flags from all 16 bits of the register; `LDE.B` to A0
or A1 takes them at 16 bits too, which is the model's choice (log 13, D9). -/
def Obligations.FarData : Prop :=
  (∀ sz a dst s, s.allows (.ldeAbs20 sz a dst) → ∃ t, exec (.ldeAbs20 sz a dst) s = .next t ∧
    TwoOperands.leaves ⟨sz, (readMem sz a s).1, s.loc dst, s⟩ t fun _ _ v r => r = v ∧ showsSZ r t.flg) ∧
  (∀ sz d dst s, s.allows (.ldeDsp20 sz d dst) → ∃ t, exec (.ldeDsp20 sz d dst) s = .next t ∧
    TwoOperands.leaves ⟨sz, (readMem sz (s.farDsp d) s).1, s.loc dst, s⟩ t
      fun _ _ v r => r = v ∧ showsSZ r t.flg) ∧
  (∀ sz dst s, s.allows (.ldeA1A0 sz dst) → ∃ t, exec (.ldeA1A0 sz dst) s = .next t ∧
    TwoOperands.leaves ⟨sz, (readMem sz s.farPair s).1, s.loc dst, s⟩ t
      fun _ _ v r => r = v ∧ showsSZ r t.flg) ∧
  (∀ sz src a s, s.allows (.steAbs20 sz src a) → ∃ t, exec (.steAbs20 sz src a) s = .next t ∧
    farStored sz src a s t) ∧
  (∀ sz src d s, s.allows (.steDsp20 sz src d) → ∃ t, exec (.steDsp20 sz src d) s = .next t ∧
    farStored sz src (s.farDsp d) s t) ∧
  (∀ sz src s, s.allows (.steA1A0 sz src) → ∃ t, exec (.steA1A0 sz src) s = .next t ∧
    farStored sz src s.farPair s t)

/-- `MOVA`, `MOVDir`, `STZ`, `STNZ`, `STZX`, `XCHG` (R215, R218, R240, R241, R242, R245). -/
def Obligations.OtherTransfers : Prop :=
  (∀ src r s, (Instr.mova src r).wellFormed = true →
    ∃ t, exec (.mova src r) s = .next t ∧ t.reg16 r = s.ea src) ∧
  (∀ k src s, (Instr.movDirToR0L k src).wellFormed = true → ∃ t, exec (.movDirToR0L k src) s = .next t ∧
    nibbleMoved k (readLoc .b (s.loc src) s).1 (s.dreg8 .d0) (t.dreg8 .d0)) ∧
  (∀ k dst s, s.allows (.movDirFromR0L k dst) → ∃ t, exec (.movDirFromR0L k dst) s = .next t ∧
    nibbleMoved k (s.dreg8 .d0) (readLoc .b (s.loc dst) s).1 (t.valueAt .b (s.loc dst))) ∧
  (∀ v dst s, s.flg.z = true → s.allows (.stz v dst) →
    ∃ t, exec (.stz v dst) s = .next t ∧ t.valueAt .b (s.shortLoc dst) = v) ∧
  (∀ v dst s, s.flg.z = false → exec (.stz v dst) s = .next (s.advance (Instr.stz v dst).length)) ∧
  (∀ v dst s, s.flg.z = false → s.allows (.stnz v dst) →
    ∃ t, exec (.stnz v dst) s = .next t ∧ t.valueAt .b (s.shortLoc dst) = v) ∧
  (∀ v dst s, s.flg.z = true → exec (.stnz v dst) s = .next (s.advance (Instr.stnz v dst).length)) ∧
  (∀ v w dst s, s.allows (.stzx v w dst) → ∃ t, exec (.stzx v w dst) s = .next t ∧
    t.valueAt .b (s.shortLoc dst) = if s.flg.z then v else w) ∧
  (∀ src dst s, s.allows (.xchg .b src dst) → ∃ t, exec (.xchg .b src dst) s = .next t ∧
    t.dreg8 src = (readLoc .b (s.loc dst) s).1 ∧ t.valueAt .b (s.loc dst) = s.dreg8 src ∧
    (∀ a, dst = .addr a → t.areg a = 0#8 ++ s.dreg8 src)) ∧
  (∀ src dst s, s.allows (.xchg .w src dst) → ∃ t, exec (.xchg .w src dst) s = .next t ∧
    t.dreg16 src = (readLoc .w (s.loc dst) s).1 ∧ t.valueAt .w (s.loc dst) = s.dreg16 src)

/-- The pushes and pops (R221 to R230, R520, R522): a push stores the value read before SP is lowered, a pop moves SP
by the size but for `POPC` to the pointer itself. That `POPC` to INTBH ignores the upper twelve bits and that the reserved
bits of FLG stay 0 is the model's choice (log 8, D6, D7). -/
def Obligations.PushPop : Prop :=
  (∀ v s, s.allows (.pushGImm v) → ∃ t, exec (.pushGImm v) s = .next t ∧ pushed v.size (immVal v) s t) ∧
  (∀ sz src s, s.allows (.pushG sz src) →
    ∃ t, exec (.pushG sz src) s = .next t ∧ pushed sz (readLoc sz (s.loc src) s).1 s t) ∧
  (∀ h s, s.allows (.pushBS h) → ∃ t, exec (.pushBS h) s = .next t ∧ pushed .b (s.dreg8 (halfDreg h)) s t) ∧
  (∀ a s, s.allows (.pushWS a) → ∃ t, exec (.pushWS a) s = .next t ∧ pushed .w (s.areg a) s t) ∧
  (∀ src s, s.allows (.pusha src) → ∃ t, exec (.pusha src) s = .next t ∧ pushed .w (s.ea src) s t) ∧
  (∀ c s, s.allows (.pushc c) → ∃ t, exec (.pushc c) s = .next t ∧ pushed .w (s.creg c) s t) ∧
  (∀ sz dst s, s.allows (.popG sz dst) → ∃ t, exec (.popG sz dst) s = .next t ∧
    t.valueAt sz (s.loc dst) = (readMem sz (near s.sp) s).1 ∧ t.sp = s.sp + elem sz) ∧
  (∀ h s, ∃ t, exec (.popBS h) s = .next t ∧ t.dreg8 (halfDreg h) = (readMem .b (near s.sp) s).1 ∧
    t.sp = s.sp + 1) ∧
  (∀ a s, ∃ t, exec (.popWS a) s = .next t ∧ t.areg a = (readMem .w (near s.sp) s).1 ∧ t.sp = s.sp + 2) ∧
  (∀ c s, ∃ t, exec (.popc c) s = .next t ∧ t.creg c = cregBits c (readMem .w (near s.sp) s).1 ∧
    t.spOf s = if c = .sp ∨ (c = .isp ∧ s.flg.u = false) then (readMem .w (near s.sp) s).1 else s.sp + 2)

/-- `PUSHM` and `POPM` (R224, R231): the listed registers lie at ascending addresses from SP in the order R0, R1, R2,
R3, A0, A1, SB, FB. -/
def Obligations.PushmPopm : Prop :=
  (∀ list s, s.allows (.pushm list) → ∃ t, exec (.pushm list) s = .next t ∧
    t.sp = s.sp - twice (listed (mirrored list)).length ∧ spilled s t.mem t.sp (listed (mirrored list))) ∧
  (∀ list s, ∃ t, exec (.popm list) s = .next t ∧ t.sp = s.sp + twice (listed list).length ∧
    ((∀ a ∈ spillBytes (listed list).length s.sp, s.plain a) → spilled t s.mem s.sp (listed list)))

/-- `POPM` with the mirrored list reads back what `PUSHM` saved, whatever happened to the registers in between (R231). -/
def Obligations.PopmUndoesPushm : Prop :=
  ∀ list s t u, exec (.pushm list) s = .next t → u.sp = t.sp →
    (∀ a ∈ spillBytes (listed (mirrored list)).length t.sp, u.plain a ∧ memGet u.mem a.toNat = memGet t.mem a.toNat) →
    ∃ v, exec (.popm (mirrored list)) u = .next v ∧ v.sp = s.sp ∧ ∀ r ∈ listed (mirrored list), v.ctx r = s.ctx r

/-! Bits and shifts. -/

/-- The bit instructions that test (R261, R266, R267, R270 to R272, R275, R276, R279). -/
def Obligations.BitTests : Prop :=
  (∀ src s, ∃ t, exec (.band src) s = .next t ∧ t.flg.c = ((bitRead (s.bitLoc src) s).1 && s.flg.c)) ∧
  (∀ src s, ∃ t, exec (.bnand src) s = .next t ∧ t.flg.c = (!(bitRead (s.bitLoc src) s).1 && s.flg.c)) ∧
  (∀ src s, ∃ t, exec (.bor src) s = .next t ∧ t.flg.c = ((bitRead (s.bitLoc src) s).1 || s.flg.c)) ∧
  (∀ src s, ∃ t, exec (.bnor src) s = .next t ∧ t.flg.c = (!(bitRead (s.bitLoc src) s).1 || s.flg.c)) ∧
  (∀ src s, ∃ t, exec (.bxor src) s = .next t ∧ t.flg.c = ((bitRead (s.bitLoc src) s).1 != s.flg.c)) ∧
  (∀ src s, ∃ t, exec (.bnxor src) s = .next t ∧ t.flg.c = ((bitRead (s.bitLoc src) s).1 == s.flg.c)) ∧
  (∀ src s, ∃ t, exec (.bntst src) s = .next t ∧ t.flg.c = !(bitRead (s.bitLoc src) s).1 ∧
    t.flg.z = !(bitRead (s.bitLoc src) s).1) ∧
  (∀ src s, ∃ t, exec (.btstG src) s = .next t ∧ t.flg.c = (bitRead (s.bitLoc src) s).1 ∧
    t.flg.z = !(bitRead (s.bitLoc src) s).1) ∧
  (∀ n d s, ∃ t, exec (.btstS n d) s = .next t ∧ t.flg.c = (bitRead (s.shortBit n d) s).1 ∧
    t.flg.z = !(bitRead (s.shortBit n d) s).1)

/-- The bit instructions that write (R262 to R265, R268, R269, R273, R274, R277, R278): one bit is replaced, the other
bits of the byte or register are those read. -/
def Obligations.BitWrites : Prop :=
  (∀ d s, s.allows (.bclrG d) → ∃ t, exec (.bclrG d) s = .next t ∧ bitWritten (s.bitLoc d) false s t) ∧
  (∀ n d s, s.allows (.bclrS n d) → ∃ t, exec (.bclrS n d) s = .next t ∧ bitWritten (s.shortBit n d) false s t) ∧
  (∀ d s, s.allows (.bsetG d) → ∃ t, exec (.bsetG d) s = .next t ∧ bitWritten (s.bitLoc d) true s t) ∧
  (∀ n d s, s.allows (.bsetS n d) → ∃ t, exec (.bsetS n d) s = .next t ∧ bitWritten (s.shortBit n d) true s t) ∧
  (∀ d s, s.allows (.bnotG d) → ∃ t, exec (.bnotG d) s = .next t ∧
    bitWritten (s.bitLoc d) (!(bitRead (s.bitLoc d) s).1) s t) ∧
  (∀ n d s, s.allows (.bnotS n d) → ∃ t, exec (.bnotS n d) s = .next t ∧
    bitWritten (s.shortBit n d) (!(bitRead (s.shortBit n d) s).1) s t) ∧
  (∀ d s, s.allows (.btstc d) → ∃ t, exec (.btstc d) s = .next t ∧ bitWritten (s.bitLoc d) false s t ∧
    t.flg.c = (bitRead (s.bitLoc d) s).1 ∧ t.flg.z = !(bitRead (s.bitLoc d) s).1) ∧
  (∀ d s, s.allows (.btsts d) → ∃ t, exec (.btsts d) s = .next t ∧ bitWritten (s.bitLoc d) true s t ∧
    t.flg.c = (bitRead (s.bitLoc d) s).1 ∧ t.flg.z = !(bitRead (s.bitLoc d) s).1) ∧
  (∀ d c s, s.allows (.bmcnd d c) → ∃ t, exec (.bmcnd d c) s = .next t ∧
    bitWritten (s.bitLoc d) (condHolds c s.flg) s t) ∧
  (∀ c s, ∃ t, exec (.bmcndC c) s = .next t ∧ t.flg.c = condHolds c s.flg)

/-- `ROT`, `SHA`, `SHL` by an immediate count, left for codes 0 to 7 and right for 8 to 15, one to eight positions
(R154, R301, R304, R306, R310), and `ROLC`, `RORC` through C (R302, R303). `SHA`'s O is the model's choice (log 22; the
spec's decision D21). -/
def Obligations.ShiftImmediate : Prop :=
  (∀ sz n dst s, s.allows (.rotImm sz n dst) → ∃ t, exec (.rotImm sz n dst) s = .next t ∧
    shiftedTo .rotate (decide (n.toNat < 8)) (n.toNat % 8 + 1) sz (s.loc dst) s t) ∧
  (∀ sz n dst s, s.allows (.shaImm sz n dst) → ∃ t, exec (.shaImm sz n dst) s = .next t ∧
    shiftedTo .arith (decide (n.toNat < 8)) (n.toNat % 8 + 1) sz (s.loc dst) s t) ∧
  (∀ sz n dst s, s.allows (.shlImm sz n dst) → ∃ t, exec (.shlImm sz n dst) s = .next t ∧
    shiftedTo .logical (decide (n.toNat < 8)) (n.toNat % 8 + 1) sz (s.loc dst) s t) ∧
  (∀ sz dst s, s.allows (.rolc sz dst) → ∃ t, exec (.rolc sz dst) s = .next t ∧
    t.valueAt sz (s.loc dst) = ((readLoc sz (s.loc dst) s).1 ++ BitVec.ofBool s.flg.c).extractLsb' 0 _ ∧
    t.flg.c = (readLoc sz (s.loc dst) s).1.msb ∧ showsSZ (t.valueAt sz (s.loc dst)) t.flg) ∧
  (∀ sz dst s, s.allows (.rorc sz dst) → ∃ t, exec (.rorc sz dst) s = .next t ∧
    t.valueAt sz (s.loc dst) = (BitVec.ofBool s.flg.c ++ (readLoc sz (s.loc dst) s).1).extractLsb' 1 _ ∧
    t.flg.c = (readLoc sz (s.loc dst) s).1.getLsbD 0 ∧ showsSZ (t.valueAt sz (s.loc dst)) t.flg)

/-- The same by the signed count in R1H: nothing for 0, `|count|` positions to the left or right inside the legal range,
and completion with an open result outside it (R301, R305, R307, R311). `SHA`'s O, whether the most significant bit
changed between the two ends of the shift, is the model's choice (log 22; the spec's decision D21). -/
def Obligations.ShiftByRegister : Prop :=
  (∀ sz dst s, s.count = 0#8 → (Instr.rotR1H sz dst).wellFormed = true →
    exec (.rotR1H sz dst) s = .next (s.advance (Instr.rotR1H sz dst).length)) ∧
  (∀ sz dst s, s.count = 0#8 → (Instr.shaR1H sz dst).wellFormed = true →
    exec (.shaR1H sz dst) s = .next (s.advance (Instr.shaR1H sz dst).length)) ∧
  (∀ sz dst s, s.count = 0#8 → (Instr.shlR1H sz dst).wellFormed = true →
    exec (.shlR1H sz dst) s = .next (s.advance (Instr.shlR1H sz dst).length)) ∧
  (∀ sz dst s, s.count ≠ 0#8 → s.allows (.rotR1H sz dst) → ∃ t, exec (.rotR1H sz dst) s = .next t ∧
    (s.count.toInt.natAbs ≤ Size.bits sz →
      shiftedTo .rotate (decide (0 < s.count.toInt)) s.count.toInt.natAbs sz (s.loc dst) s t)) ∧
  (∀ sz dst s, s.count ≠ 0#8 → s.allows (.shaR1H sz dst) → ∃ t, exec (.shaR1H sz dst) s = .next t ∧
    (s.count.toInt.natAbs ≤ Size.bits sz →
      shiftedTo .arith (decide (0 < s.count.toInt)) s.count.toInt.natAbs sz (s.loc dst) s t)) ∧
  (∀ sz dst s, s.count ≠ 0#8 → s.allows (.shlR1H sz dst) → ∃ t, exec (.shlR1H sz dst) s = .next t ∧
    (s.count.toInt.natAbs ≤ Size.bits sz →
      shiftedTo .logical (decide (0 < s.count.toInt)) s.count.toInt.natAbs sz (s.loc dst) s t))

/-- The 32-bit shifts: the pair and S; Z and C are open, O stays (R308, R309, R312, R313). The count in R1H is the one
before the pair is written (log 23, D22). -/
def Obligations.ShiftLong : Prop :=
  (∀ n p s, ∃ t, exec (.shaLImm n p) s = .next t ∧
    pairShifted .arith (decide (n.toNat < 8)) (n.toNat % 8 + 1) p s t) ∧
  (∀ n p s, ∃ t, exec (.shlLImm n p) s = .next t ∧
    pairShifted .logical (decide (n.toNat < 8)) (n.toNat % 8 + 1) p s t) ∧
  (∀ p s, s.count = 0#8 → exec (.shaLR1H p) s = .next (s.advance 2)) ∧
  (∀ p s, s.count = 0#8 → exec (.shlLR1H p) s = .next (s.advance 2)) ∧
  (∀ p s, s.count ≠ 0#8 → ∃ t, exec (.shaLR1H p) s = .next t ∧ (s.count.toInt.natAbs ≤ 16 →
    pairShifted .arith (decide (0 < s.count.toInt)) s.count.toInt.natAbs p s t)) ∧
  (∀ p s, s.count ≠ 0#8 → ∃ t, exec (.shlLR1H p) s = .next t ∧ (s.count.toInt.natAbs ≤ 16 →
    pairShifted .logical (decide (0 < s.count.toInt)) s.count.toInt.natAbs p s t))

/-! Arithmetic and logic. -/

/-- `ADD` and `ADC`: the sum at the width of R102 and the flags of R14 (R332, R333, R335 to R339). For `.B` with A0 or
A1 as destination the flags are those of the 16-bit operation: the model's choice (log 13, D9). -/
def Obligations.AddResult : Prop :=
  (∀ v dst s, s.allows (.addGImm v dst) → ∃ t, exec (.addGImm v dst) s = .next t ∧
    (immTo v dst s).leaves t fun _ d v r => r = d + v ∧ showsSum d v false t.flg) ∧
  (∀ sz v dst s, s.allows (.addQ sz v dst) → ∃ t, exec (.addQ sz v dst) s = .next t ∧
    (quickTo sz v dst s).leaves t fun _ d v r => r = d + v ∧ showsSum d v false t.flg) ∧
  (∀ v dst s, s.allows (.addBSImm v dst) → ∃ t, exec (.addBSImm v dst) s = .next t ∧
    (shortImmTo v dst s).leaves t fun _ d v r => r = d + v ∧ showsSum d v false t.flg) ∧
  (∀ sz src dst s, s.allows (.addGSrc sz src dst) → ∃ t, exec (.addGSrc sz src dst) s = .next t ∧
    (srcTo sz src dst s).leaves t fun _ d v r => r = d + v ∧ showsSum d v false t.flg) ∧
  (∀ h src s, s.allows (.addBSSrc h src) → ∃ t, exec (.addBSSrc h src) s = .next t ∧
    (shortSrcTo h src s).leaves t fun _ d v r => r = d + v ∧ showsSum d v false t.flg) ∧
  (∀ v dst s, s.allows (.adcImm v dst) → ∃ t, exec (.adcImm v dst) s = .next t ∧
    (immTo v dst s).leaves t
      fun w d v r => r = d + v + BitVec.ofNat w s.flg.c.toNat ∧ showsSum d v s.flg.c t.flg) ∧
  (∀ sz src dst s, s.allows (.adcSrc sz src dst) → ∃ t, exec (.adcSrc sz src dst) s = .next t ∧
    (srcTo sz src dst s).leaves t
      fun w d v r => r = d + v + BitVec.ofNat w s.flg.c.toNat ∧ showsSum d v s.flg.c t.flg)

/-- `SUB` and `SBB`, whose borrow is the inverse of C (R354 to R359, R14). For `.B` with A0 or
A1 as destination the flags are those of the 16-bit operation: the model's choice (log 13, D9). -/
def Obligations.SubResult : Prop :=
  (∀ v dst s, s.allows (.subGImm v dst) → ∃ t, exec (.subGImm v dst) s = .next t ∧
    (immTo v dst s).leaves t fun _ d v r => r = d - v ∧ showsDiff d v false t.flg) ∧
  (∀ v dst s, s.allows (.subBSImm v dst) → ∃ t, exec (.subBSImm v dst) s = .next t ∧
    (shortImmTo v dst s).leaves t fun _ d v r => r = d - v ∧ showsDiff d v false t.flg) ∧
  (∀ sz src dst s, s.allows (.subGSrc sz src dst) → ∃ t, exec (.subGSrc sz src dst) s = .next t ∧
    (srcTo sz src dst s).leaves t fun _ d v r => r = d - v ∧ showsDiff d v false t.flg) ∧
  (∀ h src s, s.allows (.subBSSrc h src) → ∃ t, exec (.subBSSrc h src) s = .next t ∧
    (shortSrcTo h src s).leaves t fun _ d v r => r = d - v ∧ showsDiff d v false t.flg) ∧
  (∀ v dst s, s.allows (.sbbImm v dst) → ∃ t, exec (.sbbImm v dst) s = .next t ∧
    (immTo v dst s).leaves t
      fun w d v r => r = d - v - BitVec.ofNat w (!s.flg.c).toNat ∧ showsDiff d v (!s.flg.c) t.flg) ∧
  (∀ sz src dst s, s.allows (.sbbSrc sz src dst) → ∃ t, exec (.sbbSrc sz src dst) s = .next t ∧
    (srcTo sz src dst s).leaves t
      fun w d v r => r = d - v - BitVec.ofNat w (!s.flg.c).toNat ∧ showsDiff d v (!s.flg.c) t.flg)

/-- `CMP` and `TST` set the flags of the difference and of the conjunction (R342 to R346, R431, R432); what they leave
alone is in the frames. For `.B` with A0 or
A1 as destination the flags are those of the 16-bit operation: the model's choice (log 13, D9). -/
def Obligations.CompareResult : Prop :=
  (∀ v dst s, (Instr.cmpGImm v dst).wellFormed = true → ∃ t, exec (.cmpGImm v dst) s = .next t ∧
    (immTo v dst s).leaves t fun _ d v _ => showsDiff d v false t.flg) ∧
  (∀ sz v dst s, (Instr.cmpQ sz v dst).wellFormed = true → ∃ t, exec (.cmpQ sz v dst) s = .next t ∧
    (quickTo sz v dst s).leaves t fun _ d v _ => showsDiff d v false t.flg) ∧
  (∀ v dst s, (Instr.cmpBSImm v dst).wellFormed = true → ∃ t, exec (.cmpBSImm v dst) s = .next t ∧
    (shortImmTo v dst s).leaves t fun _ d v _ => showsDiff d v false t.flg) ∧
  (∀ sz src dst s, (Instr.cmpGSrc sz src dst).wellFormed = true → ∃ t, exec (.cmpGSrc sz src dst) s = .next t ∧
    (srcTo sz src dst s).leaves t fun _ d v _ => showsDiff d v false t.flg) ∧
  (∀ h src s, (Instr.cmpBSSrc h src).wellFormed = true → ∃ t, exec (.cmpBSSrc h src) s = .next t ∧
    (shortSrcTo h src s).leaves t fun _ d v _ => showsDiff d v false t.flg) ∧
  (∀ v dst s, (Instr.tstImm v dst).wellFormed = true → ∃ t, exec (.tstImm v dst) s = .next t ∧
    (immTo v dst s).leaves t fun _ d v _ => showsSZ (d &&& v) t.flg) ∧
  (∀ sz src dst s, (Instr.tstSrc sz src dst).wellFormed = true → ∃ t, exec (.tstSrc sz src dst) s = .next t ∧
    (srcTo sz src dst s).leaves t fun _ d v _ => showsSZ (d &&& v) t.flg)

/-- `AND`, `OR`, `XOR` (R421 to R424, R427 to R430, R433, R434). For `.B` with A0 or
A1 as destination the flags are those of the 16-bit operation: the model's choice (log 13, D9). -/
def Obligations.LogicResult : Prop :=
  (∀ v dst s, s.allows (.andGImm v dst) → ∃ t, exec (.andGImm v dst) s = .next t ∧
    (immTo v dst s).leaves t fun _ d v r => r = d &&& v ∧ showsSZ r t.flg) ∧
  (∀ v dst s, s.allows (.andBSImm v dst) → ∃ t, exec (.andBSImm v dst) s = .next t ∧
    (shortImmTo v dst s).leaves t fun _ d v r => r = d &&& v ∧ showsSZ r t.flg) ∧
  (∀ sz src dst s, s.allows (.andGSrc sz src dst) → ∃ t, exec (.andGSrc sz src dst) s = .next t ∧
    (srcTo sz src dst s).leaves t fun _ d v r => r = d &&& v ∧ showsSZ r t.flg) ∧
  (∀ h src s, s.allows (.andBSSrc h src) → ∃ t, exec (.andBSSrc h src) s = .next t ∧
    (shortSrcTo h src s).leaves t fun _ d v r => r = d &&& v ∧ showsSZ r t.flg) ∧
  (∀ v dst s, s.allows (.orGImm v dst) → ∃ t, exec (.orGImm v dst) s = .next t ∧
    (immTo v dst s).leaves t fun _ d v r => r = d ||| v ∧ showsSZ r t.flg) ∧
  (∀ v dst s, s.allows (.orBSImm v dst) → ∃ t, exec (.orBSImm v dst) s = .next t ∧
    (shortImmTo v dst s).leaves t fun _ d v r => r = d ||| v ∧ showsSZ r t.flg) ∧
  (∀ sz src dst s, s.allows (.orGSrc sz src dst) → ∃ t, exec (.orGSrc sz src dst) s = .next t ∧
    (srcTo sz src dst s).leaves t fun _ d v r => r = d ||| v ∧ showsSZ r t.flg) ∧
  (∀ h src s, s.allows (.orBSSrc h src) → ∃ t, exec (.orBSSrc h src) s = .next t ∧
    (shortSrcTo h src s).leaves t fun _ d v r => r = d ||| v ∧ showsSZ r t.flg) ∧
  (∀ v dst s, s.allows (.xorImm v dst) → ∃ t, exec (.xorImm v dst) s = .next t ∧
    (immTo v dst s).leaves t fun _ d v r => r = d ^^^ v ∧ showsSZ r t.flg) ∧
  (∀ sz src dst s, s.allows (.xorSrc sz src dst) → ∃ t, exec (.xorSrc sz src dst) s = .next t ∧
    (srcTo sz src dst s).leaves t fun _ d v r => r = d ^^^ v ∧ showsSZ r t.flg)

/-- The one-operand instructions (R331, R334, R347, R348, R351 to R353, R425, R426): `NEG`'s C and O as its page words
them, `ABS`'s C open; the sign extensions (R349, R350); the additions to the stack pointer (R340, R341), where
`ADD.B:G #IMM8,SP` sign-extends by the spec's decision D23 (log 24). -/
def Obligations.OneOperand : Prop :=
  (∀ sz dst s, s.allows (.neg sz dst) → ∃ t, exec (.neg sz dst) s = .next t ∧
    t.valueAt sz (s.loc dst) = -(readLoc sz (s.loc dst) s).1 ∧ showsSZ (t.valueAt sz (s.loc dst)) t.flg ∧
    t.flg.c = decide (t.valueAt sz (s.loc dst) = 0) ∧
    t.flg.o = decide ((readLoc sz (s.loc dst) s).1 = BitVec.intMin _)) ∧
  (∀ sz dst s, s.allows (.notG sz dst) → ∃ t, exec (.notG sz dst) s = .next t ∧
    t.valueAt sz (s.loc dst) = ~~~(readLoc sz (s.loc dst) s).1 ∧ showsSZ (t.valueAt sz (s.loc dst)) t.flg) ∧
  (∀ dst s, s.allows (.notBS dst) → ∃ t, exec (.notBS dst) s = .next t ∧
    t.valueAt .b (s.shortLoc dst) = ~~~(readLoc .b (s.shortLoc dst) s).1 ∧
    showsSZ (t.valueAt .b (s.shortLoc dst)) t.flg) ∧
  (∀ dst s, s.allows (.incB dst) → ∃ t, exec (.incB dst) s = .next t ∧
    t.valueAt .b (s.shortLoc dst) = (readLoc .b (s.shortLoc dst) s).1 + 1 ∧
    showsSZ (t.valueAt .b (s.shortLoc dst)) t.flg) ∧
  (∀ a s, ∃ t, exec (.incW a) s = .next t ∧ t.areg a = s.areg a + 1 ∧ showsSZ (t.areg a) t.flg) ∧
  (∀ dst s, s.allows (.decB dst) → ∃ t, exec (.decB dst) s = .next t ∧
    t.valueAt .b (s.shortLoc dst) = (readLoc .b (s.shortLoc dst) s).1 - 1 ∧
    showsSZ (t.valueAt .b (s.shortLoc dst)) t.flg) ∧
  (∀ a s, ∃ t, exec (.decW a) s = .next t ∧ t.areg a = s.areg a - 1 ∧ showsSZ (t.areg a) t.flg) ∧
  (∀ sz dst s, s.allows (.adcf sz dst) → ∃ t, exec (.adcf sz dst) s = .next t ∧
    t.valueAt sz (s.loc dst) = (readLoc sz (s.loc dst) s).1 + BitVec.ofNat _ s.flg.c.toNat ∧
    showsSum (readLoc sz (s.loc dst) s).1 0 s.flg.c t.flg) ∧
  (∀ sz dst s, s.allows (.abs sz dst) → ∃ t d, exec (.abs sz dst) s = .next t ∧
    d = (readLoc sz (s.loc dst) { s with draws := s.draws + 1 }).1 ∧
    (d ≠ BitVec.intMin _ → (t.valueAt sz (s.loc dst)).toInt = d.toInt.natAbs) ∧
    (d = BitVec.intMin _ → t.valueAt sz (s.loc dst) = d) ∧
    t.flg.o = decide (d = BitVec.intMin _) ∧ showsSZ (t.valueAt sz (s.loc dst)) t.flg) ∧
  (∀ dst s, s.allows (.extsB dst) → ∃ t, exec (.extsB dst) s = .next t ∧ extended (s.loc dst) s t) ∧
  (∀ s, ∃ t, exec .extsW s = .next t ∧ t.bank.r2 ++ t.bank.r0 = s.bank.r0.signExtend 32) ∧
  (∀ v s, ∃ t, exec (.addGSp (.w v)) s = .next t ∧ t.sp = s.sp + v ∧ showsSum s.sp v false t.flg) ∧
  (∀ v s, ∃ t, exec (.addGSp (.b v)) s = .next t ∧ t.sp = s.sp + v.signExtend 16 ∧
    showsSum s.sp (v.signExtend 16) false t.flg) ∧
  (∀ v s, ∃ t, exec (.addQSp v) s = .next t ∧ t.sp = s.sp + v.signExtend 16 ∧
    showsSum s.sp (v.signExtend 16) false t.flg)

/-- `MUL` and `MULU`: the exact product at twice the width, where the table of R405 puts it (R405 to R409). -/
def Obligations.MultiplyResult : Prop :=
  (∀ v dst s, s.allows (.mulImm v dst) → ∃ t, exec (.mulImm v dst) s = .next t ∧
    (t.productAt v.size (s.loc dst)).toInt = (readLoc v.size (s.loc dst) s).1.toInt * (immVal v).toInt) ∧
  (∀ sz src dst s, s.allows (.mulSrc sz src dst) → ∃ t, exec (.mulSrc sz src dst) s = .next t ∧
    (t.productAt sz (s.loc dst)).toInt =
      (readLoc sz (s.loc dst) (readLoc sz (s.loc src) s).2).1.toInt * (readLoc sz (s.loc src) s).1.toInt) ∧
  (∀ v dst s, s.allows (.muluImm v dst) → ∃ t, exec (.muluImm v dst) s = .next t ∧
    (t.productAt v.size (s.loc dst)).toNat = (readLoc v.size (s.loc dst) s).1.toNat * (immVal v).toNat) ∧
  (∀ sz src dst s, s.allows (.muluSrc sz src dst) → ∃ t, exec (.muluSrc sz src dst) s = .next t ∧
    (t.productAt sz (s.loc dst)).toNat =
      (readLoc sz (s.loc dst) (readLoc sz (s.loc src) s).2).1.toNat * (readLoc sz (s.loc src) s).1.toNat)

/-- `DIV`, `DIVU`, `DIVX`: quotient and remainder with O cleared, or O set for a zero divisor and a quotient that does
not fit, which leaves both open (R398 to R404). -/
def Obligations.DivideResult : Prop :=
  (∀ v s, ∃ t, exec (.divuImm v) s = .next t ∧ dividedU v.size (immVal v) s t) ∧
  (∀ sz src s, ∃ t, exec (.divuSrc sz src) s = .next t ∧ dividedU sz (readLoc sz (s.loc src) s).1 s t) ∧
  (∀ v s, ∃ t, exec (.divImm v) s = .next t ∧ dividedT v.size (immVal v) s t) ∧
  (∀ sz src s, ∃ t, exec (.divSrc sz src) s = .next t ∧ dividedT sz (readLoc sz (s.loc src) s).1 s t) ∧
  (∀ v s, ∃ t, exec (.divxImm v) s = .next t ∧ dividedF v.size (immVal v) s t) ∧
  (∀ sz src s, ∃ t, exec (.divxSrc sz src) s = .next t ∧ dividedF sz (readLoc sz (s.loc src) s).1 s t)

/-- The sixteen decimal instructions on valid BCD patterns, with the carry or the borrow each takes; they complete on
every operand (R381 to R397). -/
def Obligations.DecimalResult : Prop :=
  (∀ v s, ∃ t, exec (.daddBImm v) s = .next t ∧ decSum 2 (s.dreg8 .d0) v false (t.dreg8 .d0) t.flg) ∧
  (∀ v s, ∃ t, exec (.daddWImm v) s = .next t ∧ decSum 4 s.bank.r0 v false t.bank.r0 t.flg) ∧
  (∀ s, ∃ t, exec .daddBReg s = .next t ∧ decSum 2 (s.dreg8 .d0) (s.dreg8 .d1) false (t.dreg8 .d0) t.flg) ∧
  (∀ s, ∃ t, exec .daddWReg s = .next t ∧ decSum 4 s.bank.r0 s.bank.r1 false t.bank.r0 t.flg) ∧
  (∀ v s, ∃ t, exec (.dadcBImm v) s = .next t ∧ decSum 2 (s.dreg8 .d0) v s.flg.c (t.dreg8 .d0) t.flg) ∧
  (∀ v s, ∃ t, exec (.dadcWImm v) s = .next t ∧ decSum 4 s.bank.r0 v s.flg.c t.bank.r0 t.flg) ∧
  (∀ s, ∃ t, exec .dadcBReg s = .next t ∧ decSum 2 (s.dreg8 .d0) (s.dreg8 .d1) s.flg.c (t.dreg8 .d0) t.flg) ∧
  (∀ s, ∃ t, exec .dadcWReg s = .next t ∧ decSum 4 s.bank.r0 s.bank.r1 s.flg.c t.bank.r0 t.flg) ∧
  (∀ v s, ∃ t, exec (.dsubBImm v) s = .next t ∧ decDiff 2 (s.dreg8 .d0) v false (t.dreg8 .d0) t.flg) ∧
  (∀ v s, ∃ t, exec (.dsubWImm v) s = .next t ∧ decDiff 4 s.bank.r0 v false t.bank.r0 t.flg) ∧
  (∀ s, ∃ t, exec .dsubBReg s = .next t ∧ decDiff 2 (s.dreg8 .d0) (s.dreg8 .d1) false (t.dreg8 .d0) t.flg) ∧
  (∀ s, ∃ t, exec .dsubWReg s = .next t ∧ decDiff 4 s.bank.r0 s.bank.r1 false t.bank.r0 t.flg) ∧
  (∀ v s, ∃ t, exec (.dsbbBImm v) s = .next t ∧ decDiff 2 (s.dreg8 .d0) v (!s.flg.c) (t.dreg8 .d0) t.flg) ∧
  (∀ v s, ∃ t, exec (.dsbbWImm v) s = .next t ∧ decDiff 4 s.bank.r0 v (!s.flg.c) t.bank.r0 t.flg) ∧
  (∀ s, ∃ t, exec .dsbbBReg s = .next t ∧ decDiff 2 (s.dreg8 .d0) (s.dreg8 .d1) (!s.flg.c) (t.dreg8 .d0) t.flg) ∧
  (∀ s, ∃ t, exec .dsbbWReg s = .next t ∧ decDiff 4 s.bank.r0 s.bank.r1 (!s.flg.c) t.bank.r0 t.flg)

/-- One iteration of `RMPA`, or none when R3 is 0: the exact sum goes truncated to the accumulator; when it does not
fit, O is set and the instruction ends; otherwise the addresses and the count move on, and at the last one O is cleared
(R410, R480). The model's choices: O stays when R3 is 0 (log 25, D24) and between the iterations, `pc` goes on after an
overflow (log 25), and `pc` stays between the iterations (log 27, D26). -/
def Obligations.RmpaIteration : Prop :=
  (∀ sz s, s.bank.r3 = 0#16 → exec (.rmpa sz) s = .next (s.advance 2)) ∧
  (∀ sz s, s.bank.r3 ≠ 0#16 → ∃ t acc, exec (.rmpa sz) s = .next t ∧
    acc = (s.accumulator sz).toInt + (readMem sz (near s.bank.a0) s).1.toInt *
      (readMem sz (near s.bank.a1) (readMem sz (near s.bank.a0) s).2).1.toInt ∧
    t.accumulator sz = BitVec.ofInt _ acc ∧
    (¬ fits (2 * Size.bits sz) acc → t.flg.o = true ∧ t.pc = s.pc + 2) ∧
    (fits (2 * Size.bits sz) acc → t.bank.a0 = s.bank.a0 + elem sz ∧ t.bank.a1 = s.bank.a1 + elem sz ∧
      t.bank.r3 = s.bank.r3 - 1 ∧ iterated (s.bank.r3 == 1#16) s t ∧
      t.flg.o = if s.bank.r3 = 1#16 then false else s.flg.o))

/-- One iteration of `SMOVB`, `SMOVF` and `SSTR`, or none when R3 is 0: one element is copied from the 20-bit source
address, or stored from R0, and addresses and count move on, R1H with the carry or borrow of A0 (R481 to R484). The
model's choices: the source address is the low 20 bits of R1H:A0, and R1H has all its 8 bits (log 47); `pc` stays between
the iterations (log 27, D26). -/
def Obligations.StringIteration : Prop :=
  (∀ sz s, s.bank.r3 = 0#16 → exec (.smovb sz) s = .next (s.advance 2) ∧ exec (.smovf sz) s = .next (s.advance 2) ∧
    exec (.sstr sz) s = .next (s.advance 2)) ∧
  (∀ sz s, s.bank.r3 ≠ 0#16 → s.allows (.smovb sz) → ∃ t, exec (.smovb sz) s = .next t ∧
    t.valueAt sz (.mem (near s.bank.a1)) =
      (readMem sz (BitVec.ofNat 20 (s.count.toNat * 2 ^ 16 + s.bank.a0.toNat)) s).1 ∧
    t.count ++ t.bank.a0 = s.count ++ s.bank.a0 - (elem sz).setWidth 24 ∧
    t.bank.a1 = s.bank.a1 - elem sz ∧ t.bank.r3 = s.bank.r3 - 1 ∧ iterated (s.bank.r3 == 1#16) s t) ∧
  (∀ sz s, s.bank.r3 ≠ 0#16 → s.allows (.smovf sz) → ∃ t, exec (.smovf sz) s = .next t ∧
    t.valueAt sz (.mem (near s.bank.a1)) =
      (readMem sz (BitVec.ofNat 20 (s.count.toNat * 2 ^ 16 + s.bank.a0.toNat)) s).1 ∧
    t.count ++ t.bank.a0 = s.count ++ s.bank.a0 + (elem sz).setWidth 24 ∧
    t.bank.a1 = s.bank.a1 + elem sz ∧ t.bank.r3 = s.bank.r3 - 1 ∧ iterated (s.bank.r3 == 1#16) s t) ∧
  (∀ sz s, s.bank.r3 ≠ 0#16 → s.allows (.sstr sz) → ∃ t, exec (.sstr sz) s = .next t ∧
    t.valueAt sz (.mem (near s.bank.a1)) = (readLoc sz (.data .d0) s).1 ∧
    t.bank.a1 = s.bank.a1 + elem sz ∧ t.bank.r3 = s.bank.r3 - 1 ∧ iterated (s.bank.r3 == 1#16) s t)

/-! Control flow. -/

/-- The jumps with their bases (R440 to R450): a target is the integer sum modulo 2^20; and `ADJNZ` with its second
spelling, where the sum goes to the destination and a sum other than 0 jumps (R457, R458). -/
def Obligations.Jumps : Prop :=
  (∀ d s, ∃ t, exec (.jmpS d) s = .next t ∧ t.pc = relTarget s.pc 2 d.toNat) ∧
  (∀ d s, ∃ t, exec (.jmpB d) s = .next t ∧ t.pc = relTarget s.pc 1 d.toInt) ∧
  (∀ d s, ∃ t, exec (.jmpW d) s = .next t ∧ t.pc = relTarget s.pc 1 d.toInt) ∧
  (∀ a s, ∃ t, exec (.jmpA a) s = .next t ∧ t.pc = a) ∧
  (∀ c d s, c.inByteForm = true → ∃ t, exec (.jcnd8 c d) s = .next t ∧
    t.pc = if condHolds c s.flg then relTarget s.pc 1 d.toInt else s.pc + 2) ∧
  (∀ c d s, c.inByteForm = false → ∃ t, exec (.jcnd16 c d) s = .next t ∧
    t.pc = if condHolds c s.flg then relTarget s.pc 2 d.toInt else s.pc + 3) ∧
  (∀ src s, ∃ t, exec (.jmpiW src) s = .next t ∧ t.pc = relTarget s.pc 0 (jumpWord src s).toInt) ∧
  (∀ src s, ∃ t, exec (.jmpiA src) s = .next t ∧ t.pc = jumpAddress src s) ∧
  (∀ n s, 18 ≤ n.toNat → ∃ t, exec (.jmps n) s = .next t ∧
    t.pc = 0xF#4 ++ (readWord (BitVec.ofNat 20 (0xFFFFE - 2 * n.toNat)) s).1) ∧
  (∀ sz v dst d s, s.allows (.adjnz sz v dst d) → ∃ t r, exec (.adjnz sz v dst d) s = .next t ∧
    r = (readLoc sz (s.loc dst) s).1 + v.signExtend _ ∧ t.valueAt sz (s.loc dst) = r ∧
    t.pc = if r = 0 then s.pc + BitVec.ofNat 20 (Instr.adjnz sz v dst d).length else relTarget s.pc 2 d.toInt) ∧
  (∀ sz v dst d s, s.allows (.sbjnz sz v dst d) → ∃ t r, exec (.sbjnz sz v dst d) s = .next t ∧
    r = (readLoc sz (s.loc dst) s).1 + v.signExtend _ ∧ t.valueAt sz (s.loc dst) = r ∧
    t.pc = if r = 0 then s.pc + BitVec.ofNat 20 (Instr.sbjnz sz v dst d).length else relTarget s.pc 2 d.toInt)

/-- The calls push the address after the instruction as three bytes and jump (R451 to R455). `RTS` pops three bytes and
returns to the address they hold (R456). The zero in the third byte's high nibble, and that `RTS` ignores that nibble,
are the model's choice (log 26; the spec's decision D25). -/
def Obligations.CallsAndReturn : Prop :=
  (∀ d s, s.allows (.jsrW d) → ∃ t, exec (.jsrW d) s = .next t ∧ called (s.pc + 3) s t ∧
    t.pc = relTarget s.pc 1 d.toInt) ∧
  (∀ a s, s.allows (.jsrA a) → ∃ t, exec (.jsrA a) s = .next t ∧ called (s.pc + 4) s t ∧ t.pc = a) ∧
  (∀ src s, s.allows (.jsriW src) → ∃ t, exec (.jsriW src) s = .next t ∧
    called (s.pc + BitVec.ofNat 20 (Instr.jsriW src).length) s t ∧
    t.pc = relTarget s.pc 0 (jumpWord src s).toInt) ∧
  (∀ src s, s.allows (.jsriA src) → ∃ t, exec (.jsriA src) s = .next t ∧
    called (s.pc + BitVec.ofNat 20 (Instr.jsriA src).length) s t ∧ t.pc = jumpAddress src s) ∧
  (∀ n s, s.allows (.jsrs n) → ∃ t, exec (.jsrs n) s = .next t ∧ called (s.pc + 2) s t ∧
    ((∀ a ∈ [BitVec.ofNat 20 (0xFFFFE - 2 * n.toNat), BitVec.ofNat 20 (0xFFFFE - 2 * n.toNat) + 1], s.plain a) →
      t.pc = 0xF#4 ++ wordAt t.mem (BitVec.ofNat 20 (0xFFFFE - 2 * n.toNat)))) ∧
  (∀ s, ∃ t, exec .rts s = .next t ∧ t.sp = s.sp + 3 ∧
    ((∀ a ∈ returnBytes s.sp, s.plain a) →
      t.pc = (memGet s.mem (near (s.sp + 2)).toNat).extractLsb' 0 4 ++ wordAt s.mem (near s.sp)))

/-- `RTS` undoes every call: a routine that leaves its return address and the stack pointer as it found them returns to
the instruction after the call with SP restored (R451 to R456); the address wraps past FFFFFh by the model's choice
(log 10, D5). -/
def Obligations.ReturnUndoesCall : Prop :=
  ∀ i s t u, (∃ d, i = .jsrW d) ∨ (∃ a, i = .jsrA a) ∨ (∃ src, i = .jsriW src) ∨ (∃ src, i = .jsriA src) ∨
      (∃ n, i = .jsrs n) →
    exec i s = .next t → u.sp = t.sp →
    (∀ a ∈ returnBytes t.sp, u.plain a ∧ memGet u.mem a.toNat = memGet t.mem a.toNat) →
    ∃ v, exec .rts u = .next v ∧ v.pc = s.pc + BitVec.ofNat 20 i.length ∧ v.sp = s.sp

/-- `ENTER` and `EXITD` (R493, R496). That `EXITD` ignores the high nibble of the third return byte is the model's choice
(log 26, D25). -/
def Obligations.StackFrame : Prop :=
  (∀ v s, s.allows (.enter v) → ∃ t, exec (.enter v) s = .next t ∧ wordAt t.mem (near (s.sp - 2)) = s.bank.fb ∧
    t.bank.fb = s.sp - 2 ∧ t.sp = s.sp - 2 - v.setWidth 16) ∧
  (∀ s, ∃ t, exec .exitd s = .next t ∧ t.sp = s.bank.fb + 5 ∧
    ((∀ a ∈ [near s.bank.fb, near s.bank.fb + 1] ++ returnBytes (s.bank.fb + 2), s.plain a) →
      t.bank.fb = wordAt s.mem (near s.bank.fb) ∧
      t.pc = (memGet s.mem (near (s.bank.fb + 4)).toNat).extractLsb' 0 4 ++ wordAt s.mem (near (s.bank.fb + 2))))

/-- `LDCTX` and `STCTX`: the task number at abs16 selects a pair of bytes at abs20 + 2 * task, the register information
and the SP correction; the registers lie at ascending addresses, R0 first (R516, R529). The model's choices (log 39):
the correction is applied as given, whatever registers are listed, and SP is read once at the start. -/
def Obligations.TaskContext : Prop :=
  (∀ num table s, ∃ t, exec (.ldctx num table) s = .next t) ∧
  (∀ num table s, s.plain (near num) →
    s.plain (table + BitVec.ofNat 20 (2 * (memGet s.mem num.toNat).toNat)) →
    s.plain (table + BitVec.ofNat 20 (2 * (memGet s.mem num.toNat).toNat) + 1) →
    ∃ info corr,
      info = memGet s.mem (table + BitVec.ofNat 20 (2 * (memGet s.mem num.toNat).toNat)).toNat ∧
      corr = memGet s.mem (table + BitVec.ofNat 20 (2 * (memGet s.mem num.toNat).toNat) + 1).toNat ∧
      ((∀ a ∈ spillBytes (listed info).length s.sp, s.plain a) → ∃ t, exec (.ldctx num table) s = .next t ∧
        t.sp = s.sp + corr.setWidth 16 ∧ spilled t s.mem s.sp (listed info)) ∧
      (s.allows (.stctx num table) → ∃ t, exec (.stctx num table) s = .next t ∧
        t.sp = s.sp - corr.setWidth 16 ∧
        spilled s t.mem (s.sp - twice (listed info).length) (listed info)))

/-- Control registers and flags (R491, R499, R502, R512, R514, R518, R526, R527), `NOP` and `WAIT` (R519, R537). The
model's choices: the reserved bits of FLG stay 0 and INTBH has four bits (log 8, D6, D7), and `STC PC` gives zeros above
bit 19 (log 26, D25). -/
def Obligations.ControlRegisters : Prop :=
  (∀ f s, ∃ t, exec (.fset f) s = .next t ∧ t.flg.get f = true) ∧
  (∀ f s, ∃ t, exec (.fclr f) s = .next t ∧ t.flg.get f = false) ∧
  (∀ l s, ∃ t, exec (.ldipl l) s = .next t ∧ t.flg.ipl = l) ∧
  (∀ v c s, ∃ t, exec (.ldcImm v c) s = .next t ∧ t.creg c = cregBits c v ∧
    (c = .intbl → t.intb = s.intb.extractLsb' 16 4 ++ v) ∧
    (c = .intbh → t.intb = v.extractLsb' 0 4 ++ s.intb.extractLsb' 0 16)) ∧
  (∀ src c s, ∃ t, exec (.ldcSrc src c) s = .next t ∧ t.creg c = cregBits c (readLoc .w (s.loc src) s).1 ∧
    (c = .intbl → t.intb = s.intb.extractLsb' 16 4 ++ (readLoc .w (s.loc src) s).1) ∧
    (c = .intbh → t.intb = (readLoc .w (s.loc src) s).1.extractLsb' 0 4 ++ s.intb.extractLsb' 0 16)) ∧
  (∀ c dst s, s.allows (.stcDest c dst) → ∃ t, exec (.stcDest c dst) s = .next t ∧
    t.valueAt .w (s.loc dst) = s.creg c) ∧
  (∀ p s, ∃ t, exec (.stcPc (.pair p)) s = .next t ∧ t.pair p = 0#12 ++ (s.pc + 2)) ∧
  (∀ e s, s.allows (.stcPc (.mem e)) → ∃ t, exec (.stcPc (.mem e)) s = .next t ∧
    memGet t.mem (near (s.ea e) + 2).toNat ++ wordAt t.mem (near (s.ea e)) =
      0#4 ++ (s.pc + BitVec.ofNat 20 (Instr.stcPc (.mem e)).length)) ∧
  (∀ s, exec .nop s = .next (s.advance 1)) ∧
  (∀ s, exec .wait s = .next { s.advance 2 with waiting := true })

end
end

