-- ==== Sys2Proof/Laws/Memory.lean ====
section
/-! SUPPORT. The laws of memory: a read after a write, and the canonical form that every operation keeps
(spec/20_memory.md R70, R75). -/

namespace Sys2Proof.Machine

theorem memGet_dropWhile_gt (m : List Host.Cell) (a b : Nat) (h : a < b) :
    memGet (m.dropWhile fun c => decide (c.1 ≤ a)) b = memGet m b := by
  induction m with
  | nil => rfl
  | cons c m ih =>
    obtain ⟨k, w⟩ := c
    simp only [List.dropWhile_cons]
    by_cases hk : k ≤ a
    · simp only [hk, decide_true, if_true, ih]
      simp [memGet, show ¬ b < k by omega, show b ≠ k by omega]
    · simp [hk]

theorem memGet_dropWhile_le (m : List Host.Cell) (a b : Nat) (h : b ≤ a) :
    memGet (m.dropWhile fun c => decide (c.1 ≤ a)) b = unlisted := by
  induction m with
  | nil => rfl
  | cons c m ih =>
    obtain ⟨k, w⟩ := c
    simp only [List.dropWhile_cons]
    by_cases hk : k ≤ a
    · simpa [hk] using ih
    · simp [hk, memGet, show b < k by omega]

/-- Reading the byte just written. -/
@[simp] theorem memGet_memSet_same (m : List Host.Cell) (a : Nat) (v : Byte) : memGet (memSet m a v) a = v := by
  induction m with
  | nil => simp only [memSet]; split <;> simp_all [memGet]
  | cons c m ih =>
    obtain ⟨k, w⟩ := c
    simp only [memSet]
    split
    · split
      · rename_i h1 h2; simp [memGet, h1, h2]
      · simp [memGet]
    · split
      · subst_vars
        split
        · rename_i h; rw [memGet_dropWhile_le _ _ _ (Nat.le_refl _), h]
        · simp [memGet]
      · rename_i h1 h2; simp [memGet, h1, h2, ih]

/-- Reading another byte than the one written. -/
theorem memGet_memSet_other (m : List Host.Cell) (a b : Nat) (v : Byte) (h : b ≠ a) :
    memGet (memSet m a v) b = memGet m b := by
  induction m with
  | nil => simp only [memSet]; split <;> simp [memGet, h]
  | cons c m ih =>
    obtain ⟨k, w⟩ := c
    simp only [memSet]
    split
    · rename_i hlt
      split
      · rfl
      · simp only [memGet, h, if_false]
        by_cases hba : b < a
        · simp [hba, show b < k by omega]
        · simp [hba]
    · split
      · subst_vars
        split
        · rename_i h1 h2
          by_cases hb : b < k
          · simp [memGet, hb, memGet_dropWhile_le _ _ _ (Nat.le_of_lt hb)]
          · rw [memGet_dropWhile_gt _ _ _ (by omega)]; simp [memGet, hb, h]
        · simp [memGet, h]
      · simp only [memGet, ih]

/-- A store keeps the canonical form. -/
theorem memSet_wf (m : List Host.Cell) (a : Nat) (v : Byte) (ha : a < 2 ^ 20) (h : memWf m) :
    memWf (memSet m a v) := by
  have key : ∀ m : List Host.Cell, memWf m → ∀ lo : Nat, lo < a → (∀ c ∈ m, lo < c.1) →
      ∀ c ∈ memSet m a v, lo < c.1 := by
    intro m
    induction m with
    | nil => intro _ lo hlo _ c hc; simp only [memSet] at hc; split at hc <;> simp_all
    | cons d m ih =>
      obtain ⟨k, w⟩ := d
      intro hm lo hlo hall c hc
      have hm' : memWf m := ⟨(List.pairwise_cons.mp hm.1).2, fun c hc => hm.2 c (by simp [hc])⟩
      have hk : lo < k := hall (k, w) (by simp)
      simp only [memSet] at hc
      split at hc
      · split at hc
        · exact hall c hc
        · rcases List.mem_cons.mp hc with rfl | hc
          · exact hlo
          · exact hall c hc
      · split at hc
        · split at hc
          · exact hall c (List.mem_cons_of_mem _ ((List.dropWhile_sublist _).subset hc))
          · rcases List.mem_cons.mp hc with rfl | hc
            · exact hlo
            · exact hall c (List.mem_cons_of_mem _ hc)
        · rcases List.mem_cons.mp hc with rfl | hc
          · exact hk
          · exact ih hm' lo hlo (fun c hc => hall c (List.mem_cons_of_mem _ hc)) c hc
  induction m with
  | nil => simp only [memSet]; split <;> simp_all [memWf]
  | cons d m ih =>
    obtain ⟨k, w⟩ := d
    obtain ⟨hp, hv⟩ := h
    rw [List.pairwise_cons] at hp
    have hm : memWf m := ⟨hp.2, fun c hc => hv c (by simp [hc])⟩
    simp only [memSet]
    split
    · split
      · exact ⟨List.pairwise_cons.mpr hp, hv⟩
      · refine ⟨List.pairwise_cons.mpr ⟨?_, List.pairwise_cons.mpr hp⟩, ?_⟩
        · intro c hc
          rcases List.mem_cons.mp hc with rfl | hc
          · assumption
          · exact Nat.lt_trans (by assumption) (hp.1 c hc)
        · intro c hc
          rcases List.mem_cons.mp hc with rfl | hc
          · exact ⟨ha, by assumption⟩
          · exact hv c hc
    · split
      · subst_vars
        split
        · exact ⟨hp.2.sublist (List.dropWhile_sublist _),
            fun c hc => hm.2 c ((List.dropWhile_sublist _).subset hc)⟩
        · refine ⟨List.pairwise_cons.mpr ⟨hp.1, hp.2⟩, ?_⟩
          intro c hc
          rcases List.mem_cons.mp hc with rfl | hc
          · exact ⟨ha, by assumption⟩
          · exact hv c (by simp [hc])
      · have hka : k < a := by omega
        refine ⟨List.pairwise_cons.mpr ⟨key m hm k hka hp.1, (ih hm).1⟩, ?_⟩
        intro c hc
        rcases List.mem_cons.mp hc with rfl | hc
        · exact hv _ (by simp)
        · exact (ih hm).2 c hc

/-- Filling keeps the canonical form. -/
theorem memFill_wf (last : Nat) (m l : List Host.Cell) (h : memWf m) : memWf (memFill last m l) := by
  induction l generalizing m with
  | nil => exact h
  | cons c l ih =>
    obtain ⟨a, v⟩ := c
    apply ih
    split
    · exact memSet_wf _ _ _ (by omega) h
    · exact h

/-- Filling leaves every byte above the last one alone. -/
theorem memFill_above (last : Nat) (m l : List Host.Cell) (b : Nat) (h : last < b) :
    memGet (memFill last m l) b = memGet m b := by
  induction l generalizing m with
  | nil => rfl
  | cons c l ih =>
    obtain ⟨a, v⟩ := c
    simp only [memFill]
    rw [ih]
    split
    · exact memGet_memSet_other _ _ _ _ (by omega)
    · rfl

/-- Placing bytes keeps the canonical form. -/
theorem placeBytes_wf (l : List Byte) (a : Addr) (m : List Host.Cell) (h : memWf m) : memWf (placeBytes l a m) := by
  induction l generalizing a m with
  | nil => exact h
  | cons b l ih => exact ih _ _ (memSet_wf _ _ _ a.isLt h)

/-- Memory after reset has the canonical form. -/
theorem reset_memWf : memWf State.reset.mem := by decide

/-- A store through the machine keeps the canonical form. -/
theorem stored_wf (k : StoreKind) (a : Addr) (v : Byte) (s : State) (h : memWf s.mem) :
    memWf (stored k a v s).mem := memSet_wf _ _ _ a.isLt h

end Sys2Proof.Machine
end

