-- ==== Sys2Proof/Laws/State.lean ====
section
/-! SUPPORT. One lemma for each field of State and each update of it, so that no proof unfolds a record update. -/

namespace Sys2Proof.Machine

/-! `State.setBank`. -/

@[simp] theorem State.setBank_bank0 (s : State) (k : Bank) : (s.setBank k).bank0 = (if s.flg.b then s.bank0 else k) := rfl
@[simp] theorem State.setBank_bank1 (s : State) (k : Bank) : (s.setBank k).bank1 = (if s.flg.b then k else s.bank1) := rfl
@[simp] theorem State.setBank_sb (s : State) (k : Bank) : (s.setBank k).sb = s.sb := rfl
@[simp] theorem State.setBank_usp (s : State) (k : Bank) : (s.setBank k).usp = s.usp := rfl
@[simp] theorem State.setBank_isp (s : State) (k : Bank) : (s.setBank k).isp = s.isp := rfl
@[simp] theorem State.setBank_intb (s : State) (k : Bank) : (s.setBank k).intb = s.intb := rfl
@[simp] theorem State.setBank_pc (s : State) (k : Bank) : (s.setBank k).pc = s.pc := rfl
@[simp] theorem State.setBank_flg (s : State) (k : Bank) : (s.setBank k).flg = s.flg := rfl
@[simp] theorem State.setBank_mem (s : State) (k : Bank) : (s.setBank k).mem = s.mem := rfl
@[simp] theorem State.setBank_intShadow (s : State) (k : Bank) : (s.setBank k).intShadow = s.intShadow := rfl
@[simp] theorem State.setBank_waiting (s : State) (k : Bank) : (s.setBank k).waiting = s.waiting := rfl
@[simp] theorem State.setBank_prevI (s : State) (k : Bank) : (s.setBank k).prevI = s.prevI := rfl
@[simp] theorem State.setBank_iplOld (s : State) (k : Bank) : (s.setBank k).iplOld = s.iplOld := rfl
@[simp] theorem State.setBank_resume (s : State) (k : Bank) : (s.setBank k).resume = s.resume := rfl
@[simp] theorem State.setBank_queue (s : State) (k : Bank) : (s.setBank k).queue = s.queue := rfl
@[simp] theorem State.setBank_sources (s : State) (k : Bank) : (s.setBank k).sources = s.sources := rfl
@[simp] theorem State.setBank_nmiReq (s : State) (k : Bank) : (s.setBank k).nmiReq = s.nmiReq := rfl
@[simp] theorem State.setBank_wdtReq (s : State) (k : Bank) : (s.setBank k).wdtReq = s.wdtReq := rfl
@[simp] theorem State.setBank_dbcReq (s : State) (k : Bank) : (s.setBank k).dbcReq = s.dbcReq := rfl
@[simp] theorem State.setBank_stepReq (s : State) (k : Bank) : (s.setBank k).stepReq = s.stepReq := rfl
@[simp] theorem State.setBank_resetReq (s : State) (k : Bank) : (s.setBank k).resetReq = s.resetReq := rfl
@[simp] theorem State.setBank_matchRegs (s : State) (k : Bank) : (s.setBank k).matchRegs = s.matchRegs := rfl
@[simp] theorem State.setBank_matchReq (s : State) (k : Bank) : (s.setBank k).matchReq = s.matchReq := rfl
@[simp] theorem State.setBank_sfrTrace (s : State) (k : Bank) : (s.setBank k).sfrTrace = s.sfrTrace := rfl
@[simp] theorem State.setBank_product (s : State) (k : Bank) : (s.setBank k).product = s.product := rfl
@[simp] theorem State.setBank_draws (s : State) (k : Bank) : (s.setBank k).draws = s.draws := rfl

/-! `State.setFlg`. -/

@[simp] theorem State.setFlg_bank0 (s : State) (f : Flg) : (s.setFlg f).bank0 = s.bank0 := rfl
@[simp] theorem State.setFlg_bank1 (s : State) (f : Flg) : (s.setFlg f).bank1 = s.bank1 := rfl
@[simp] theorem State.setFlg_sb (s : State) (f : Flg) : (s.setFlg f).sb = s.sb := rfl
@[simp] theorem State.setFlg_usp (s : State) (f : Flg) : (s.setFlg f).usp = s.usp := rfl
@[simp] theorem State.setFlg_isp (s : State) (f : Flg) : (s.setFlg f).isp = s.isp := rfl
@[simp] theorem State.setFlg_intb (s : State) (f : Flg) : (s.setFlg f).intb = s.intb := rfl
@[simp] theorem State.setFlg_pc (s : State) (f : Flg) : (s.setFlg f).pc = s.pc := rfl
@[simp] theorem State.setFlg_flg (s : State) (f : Flg) : (s.setFlg f).flg = f := rfl
@[simp] theorem State.setFlg_mem (s : State) (f : Flg) : (s.setFlg f).mem = s.mem := rfl
@[simp] theorem State.setFlg_intShadow (s : State) (f : Flg) : (s.setFlg f).intShadow = s.intShadow := rfl
@[simp] theorem State.setFlg_waiting (s : State) (f : Flg) : (s.setFlg f).waiting = s.waiting := rfl
@[simp] theorem State.setFlg_prevI (s : State) (f : Flg) : (s.setFlg f).prevI = s.prevI := rfl
@[simp] theorem State.setFlg_iplOld (s : State) (f : Flg) : (s.setFlg f).iplOld = s.iplOld := rfl
@[simp] theorem State.setFlg_resume (s : State) (f : Flg) : (s.setFlg f).resume = s.resume := rfl
@[simp] theorem State.setFlg_queue (s : State) (f : Flg) : (s.setFlg f).queue = s.queue := rfl
@[simp] theorem State.setFlg_sources (s : State) (f : Flg) : (s.setFlg f).sources = s.sources := rfl
@[simp] theorem State.setFlg_nmiReq (s : State) (f : Flg) : (s.setFlg f).nmiReq = s.nmiReq := rfl
@[simp] theorem State.setFlg_wdtReq (s : State) (f : Flg) : (s.setFlg f).wdtReq = s.wdtReq := rfl
@[simp] theorem State.setFlg_dbcReq (s : State) (f : Flg) : (s.setFlg f).dbcReq = s.dbcReq := rfl
@[simp] theorem State.setFlg_stepReq (s : State) (f : Flg) : (s.setFlg f).stepReq = s.stepReq := rfl
@[simp] theorem State.setFlg_resetReq (s : State) (f : Flg) : (s.setFlg f).resetReq = s.resetReq := rfl
@[simp] theorem State.setFlg_matchRegs (s : State) (f : Flg) : (s.setFlg f).matchRegs = s.matchRegs := rfl
@[simp] theorem State.setFlg_matchReq (s : State) (f : Flg) : (s.setFlg f).matchReq = s.matchReq := rfl
@[simp] theorem State.setFlg_sfrTrace (s : State) (f : Flg) : (s.setFlg f).sfrTrace = s.sfrTrace := rfl
@[simp] theorem State.setFlg_product (s : State) (f : Flg) : (s.setFlg f).product = s.product := rfl
@[simp] theorem State.setFlg_draws (s : State) (f : Flg) : (s.setFlg f).draws = s.draws := rfl

/-! `State.setSp`. -/

@[simp] theorem State.setSp_bank0 (s : State) (v : Word) : (s.setSp v).bank0 = s.bank0 := rfl
@[simp] theorem State.setSp_bank1 (s : State) (v : Word) : (s.setSp v).bank1 = s.bank1 := rfl
@[simp] theorem State.setSp_sb (s : State) (v : Word) : (s.setSp v).sb = s.sb := rfl
@[simp] theorem State.setSp_usp (s : State) (v : Word) : (s.setSp v).usp = (if s.flg.u then v else s.usp) := rfl
@[simp] theorem State.setSp_isp (s : State) (v : Word) : (s.setSp v).isp = (if s.flg.u then s.isp else v) := rfl
@[simp] theorem State.setSp_intb (s : State) (v : Word) : (s.setSp v).intb = s.intb := rfl
@[simp] theorem State.setSp_pc (s : State) (v : Word) : (s.setSp v).pc = s.pc := rfl
@[simp] theorem State.setSp_flg (s : State) (v : Word) : (s.setSp v).flg = s.flg := rfl
@[simp] theorem State.setSp_mem (s : State) (v : Word) : (s.setSp v).mem = s.mem := rfl
@[simp] theorem State.setSp_intShadow (s : State) (v : Word) : (s.setSp v).intShadow = s.intShadow := rfl
@[simp] theorem State.setSp_waiting (s : State) (v : Word) : (s.setSp v).waiting = s.waiting := rfl
@[simp] theorem State.setSp_prevI (s : State) (v : Word) : (s.setSp v).prevI = s.prevI := rfl
@[simp] theorem State.setSp_iplOld (s : State) (v : Word) : (s.setSp v).iplOld = s.iplOld := rfl
@[simp] theorem State.setSp_resume (s : State) (v : Word) : (s.setSp v).resume = s.resume := rfl
@[simp] theorem State.setSp_queue (s : State) (v : Word) : (s.setSp v).queue = s.queue := rfl
@[simp] theorem State.setSp_sources (s : State) (v : Word) : (s.setSp v).sources = s.sources := rfl
@[simp] theorem State.setSp_nmiReq (s : State) (v : Word) : (s.setSp v).nmiReq = s.nmiReq := rfl
@[simp] theorem State.setSp_wdtReq (s : State) (v : Word) : (s.setSp v).wdtReq = s.wdtReq := rfl
@[simp] theorem State.setSp_dbcReq (s : State) (v : Word) : (s.setSp v).dbcReq = s.dbcReq := rfl
@[simp] theorem State.setSp_stepReq (s : State) (v : Word) : (s.setSp v).stepReq = s.stepReq := rfl
@[simp] theorem State.setSp_resetReq (s : State) (v : Word) : (s.setSp v).resetReq = s.resetReq := rfl
@[simp] theorem State.setSp_matchRegs (s : State) (v : Word) : (s.setSp v).matchRegs = s.matchRegs := rfl
@[simp] theorem State.setSp_matchReq (s : State) (v : Word) : (s.setSp v).matchReq = s.matchReq := rfl
@[simp] theorem State.setSp_sfrTrace (s : State) (v : Word) : (s.setSp v).sfrTrace = s.sfrTrace := rfl
@[simp] theorem State.setSp_product (s : State) (v : Word) : (s.setSp v).product = s.product := rfl
@[simp] theorem State.setSp_draws (s : State) (v : Word) : (s.setSp v).draws = s.draws := rfl

/-! `State.setFb`. -/

@[simp] theorem State.setFb_sb (s : State) (v : Word) : (s.setFb v).sb = s.sb := rfl
@[simp] theorem State.setFb_usp (s : State) (v : Word) : (s.setFb v).usp = s.usp := rfl
@[simp] theorem State.setFb_isp (s : State) (v : Word) : (s.setFb v).isp = s.isp := rfl
@[simp] theorem State.setFb_intb (s : State) (v : Word) : (s.setFb v).intb = s.intb := rfl
@[simp] theorem State.setFb_pc (s : State) (v : Word) : (s.setFb v).pc = s.pc := rfl
@[simp] theorem State.setFb_flg (s : State) (v : Word) : (s.setFb v).flg = s.flg := rfl
@[simp] theorem State.setFb_mem (s : State) (v : Word) : (s.setFb v).mem = s.mem := rfl
@[simp] theorem State.setFb_intShadow (s : State) (v : Word) : (s.setFb v).intShadow = s.intShadow := rfl
@[simp] theorem State.setFb_waiting (s : State) (v : Word) : (s.setFb v).waiting = s.waiting := rfl
@[simp] theorem State.setFb_prevI (s : State) (v : Word) : (s.setFb v).prevI = s.prevI := rfl
@[simp] theorem State.setFb_iplOld (s : State) (v : Word) : (s.setFb v).iplOld = s.iplOld := rfl
@[simp] theorem State.setFb_resume (s : State) (v : Word) : (s.setFb v).resume = s.resume := rfl
@[simp] theorem State.setFb_queue (s : State) (v : Word) : (s.setFb v).queue = s.queue := rfl
@[simp] theorem State.setFb_sources (s : State) (v : Word) : (s.setFb v).sources = s.sources := rfl
@[simp] theorem State.setFb_nmiReq (s : State) (v : Word) : (s.setFb v).nmiReq = s.nmiReq := rfl
@[simp] theorem State.setFb_wdtReq (s : State) (v : Word) : (s.setFb v).wdtReq = s.wdtReq := rfl
@[simp] theorem State.setFb_dbcReq (s : State) (v : Word) : (s.setFb v).dbcReq = s.dbcReq := rfl
@[simp] theorem State.setFb_stepReq (s : State) (v : Word) : (s.setFb v).stepReq = s.stepReq := rfl
@[simp] theorem State.setFb_resetReq (s : State) (v : Word) : (s.setFb v).resetReq = s.resetReq := rfl
@[simp] theorem State.setFb_matchRegs (s : State) (v : Word) : (s.setFb v).matchRegs = s.matchRegs := rfl
@[simp] theorem State.setFb_matchReq (s : State) (v : Word) : (s.setFb v).matchReq = s.matchReq := rfl
@[simp] theorem State.setFb_sfrTrace (s : State) (v : Word) : (s.setFb v).sfrTrace = s.sfrTrace := rfl
@[simp] theorem State.setFb_product (s : State) (v : Word) : (s.setFb v).product = s.product := rfl
@[simp] theorem State.setFb_draws (s : State) (v : Word) : (s.setFb v).draws = s.draws := rfl

/-! `State.setAreg`. -/

@[simp] theorem State.setAreg_sb (s : State) (r : AReg) (v : Word) : (s.setAreg r v).sb = s.sb := by cases r <;> rfl
@[simp] theorem State.setAreg_usp (s : State) (r : AReg) (v : Word) : (s.setAreg r v).usp = s.usp := by cases r <;> rfl
@[simp] theorem State.setAreg_isp (s : State) (r : AReg) (v : Word) : (s.setAreg r v).isp = s.isp := by cases r <;> rfl
@[simp] theorem State.setAreg_intb (s : State) (r : AReg) (v : Word) : (s.setAreg r v).intb = s.intb := by cases r <;> rfl
@[simp] theorem State.setAreg_pc (s : State) (r : AReg) (v : Word) : (s.setAreg r v).pc = s.pc := by cases r <;> rfl
@[simp] theorem State.setAreg_flg (s : State) (r : AReg) (v : Word) : (s.setAreg r v).flg = s.flg := by cases r <;> rfl
@[simp] theorem State.setAreg_mem (s : State) (r : AReg) (v : Word) : (s.setAreg r v).mem = s.mem := by cases r <;> rfl
@[simp] theorem State.setAreg_intShadow (s : State) (r : AReg) (v : Word) : (s.setAreg r v).intShadow = s.intShadow := by cases r <;> rfl
@[simp] theorem State.setAreg_waiting (s : State) (r : AReg) (v : Word) : (s.setAreg r v).waiting = s.waiting := by cases r <;> rfl
@[simp] theorem State.setAreg_prevI (s : State) (r : AReg) (v : Word) : (s.setAreg r v).prevI = s.prevI := by cases r <;> rfl
@[simp] theorem State.setAreg_iplOld (s : State) (r : AReg) (v : Word) : (s.setAreg r v).iplOld = s.iplOld := by cases r <;> rfl
@[simp] theorem State.setAreg_resume (s : State) (r : AReg) (v : Word) : (s.setAreg r v).resume = s.resume := by cases r <;> rfl
@[simp] theorem State.setAreg_queue (s : State) (r : AReg) (v : Word) : (s.setAreg r v).queue = s.queue := by cases r <;> rfl
@[simp] theorem State.setAreg_sources (s : State) (r : AReg) (v : Word) : (s.setAreg r v).sources = s.sources := by cases r <;> rfl
@[simp] theorem State.setAreg_nmiReq (s : State) (r : AReg) (v : Word) : (s.setAreg r v).nmiReq = s.nmiReq := by cases r <;> rfl
@[simp] theorem State.setAreg_wdtReq (s : State) (r : AReg) (v : Word) : (s.setAreg r v).wdtReq = s.wdtReq := by cases r <;> rfl
@[simp] theorem State.setAreg_dbcReq (s : State) (r : AReg) (v : Word) : (s.setAreg r v).dbcReq = s.dbcReq := by cases r <;> rfl
@[simp] theorem State.setAreg_stepReq (s : State) (r : AReg) (v : Word) : (s.setAreg r v).stepReq = s.stepReq := by cases r <;> rfl
@[simp] theorem State.setAreg_resetReq (s : State) (r : AReg) (v : Word) : (s.setAreg r v).resetReq = s.resetReq := by cases r <;> rfl
@[simp] theorem State.setAreg_matchRegs (s : State) (r : AReg) (v : Word) : (s.setAreg r v).matchRegs = s.matchRegs := by cases r <;> rfl
@[simp] theorem State.setAreg_matchReq (s : State) (r : AReg) (v : Word) : (s.setAreg r v).matchReq = s.matchReq := by cases r <;> rfl
@[simp] theorem State.setAreg_sfrTrace (s : State) (r : AReg) (v : Word) : (s.setAreg r v).sfrTrace = s.sfrTrace := by cases r <;> rfl
@[simp] theorem State.setAreg_product (s : State) (r : AReg) (v : Word) : (s.setAreg r v).product = s.product := by cases r <;> rfl
@[simp] theorem State.setAreg_draws (s : State) (r : AReg) (v : Word) : (s.setAreg r v).draws = s.draws := by cases r <;> rfl

/-! `State.setDreg16`. -/

@[simp] theorem State.setDreg16_sb (s : State) (r : DReg) (v : Word) : (s.setDreg16 r v).sb = s.sb := by cases r <;> rfl
@[simp] theorem State.setDreg16_usp (s : State) (r : DReg) (v : Word) : (s.setDreg16 r v).usp = s.usp := by cases r <;> rfl
@[simp] theorem State.setDreg16_isp (s : State) (r : DReg) (v : Word) : (s.setDreg16 r v).isp = s.isp := by cases r <;> rfl
@[simp] theorem State.setDreg16_intb (s : State) (r : DReg) (v : Word) : (s.setDreg16 r v).intb = s.intb := by cases r <;> rfl
@[simp] theorem State.setDreg16_pc (s : State) (r : DReg) (v : Word) : (s.setDreg16 r v).pc = s.pc := by cases r <;> rfl
@[simp] theorem State.setDreg16_flg (s : State) (r : DReg) (v : Word) : (s.setDreg16 r v).flg = s.flg := by cases r <;> rfl
@[simp] theorem State.setDreg16_mem (s : State) (r : DReg) (v : Word) : (s.setDreg16 r v).mem = s.mem := by cases r <;> rfl
@[simp] theorem State.setDreg16_intShadow (s : State) (r : DReg) (v : Word) : (s.setDreg16 r v).intShadow = s.intShadow := by cases r <;> rfl
@[simp] theorem State.setDreg16_waiting (s : State) (r : DReg) (v : Word) : (s.setDreg16 r v).waiting = s.waiting := by cases r <;> rfl
@[simp] theorem State.setDreg16_prevI (s : State) (r : DReg) (v : Word) : (s.setDreg16 r v).prevI = s.prevI := by cases r <;> rfl
@[simp] theorem State.setDreg16_iplOld (s : State) (r : DReg) (v : Word) : (s.setDreg16 r v).iplOld = s.iplOld := by cases r <;> rfl
@[simp] theorem State.setDreg16_resume (s : State) (r : DReg) (v : Word) : (s.setDreg16 r v).resume = s.resume := by cases r <;> rfl
@[simp] theorem State.setDreg16_queue (s : State) (r : DReg) (v : Word) : (s.setDreg16 r v).queue = s.queue := by cases r <;> rfl
@[simp] theorem State.setDreg16_sources (s : State) (r : DReg) (v : Word) : (s.setDreg16 r v).sources = s.sources := by cases r <;> rfl
@[simp] theorem State.setDreg16_nmiReq (s : State) (r : DReg) (v : Word) : (s.setDreg16 r v).nmiReq = s.nmiReq := by cases r <;> rfl
@[simp] theorem State.setDreg16_wdtReq (s : State) (r : DReg) (v : Word) : (s.setDreg16 r v).wdtReq = s.wdtReq := by cases r <;> rfl
@[simp] theorem State.setDreg16_dbcReq (s : State) (r : DReg) (v : Word) : (s.setDreg16 r v).dbcReq = s.dbcReq := by cases r <;> rfl
@[simp] theorem State.setDreg16_stepReq (s : State) (r : DReg) (v : Word) : (s.setDreg16 r v).stepReq = s.stepReq := by cases r <;> rfl
@[simp] theorem State.setDreg16_resetReq (s : State) (r : DReg) (v : Word) : (s.setDreg16 r v).resetReq = s.resetReq := by cases r <;> rfl
@[simp] theorem State.setDreg16_matchRegs (s : State) (r : DReg) (v : Word) : (s.setDreg16 r v).matchRegs = s.matchRegs := by cases r <;> rfl
@[simp] theorem State.setDreg16_matchReq (s : State) (r : DReg) (v : Word) : (s.setDreg16 r v).matchReq = s.matchReq := by cases r <;> rfl
@[simp] theorem State.setDreg16_sfrTrace (s : State) (r : DReg) (v : Word) : (s.setDreg16 r v).sfrTrace = s.sfrTrace := by cases r <;> rfl
@[simp] theorem State.setDreg16_product (s : State) (r : DReg) (v : Word) : (s.setDreg16 r v).product = s.product := by cases r <;> rfl
@[simp] theorem State.setDreg16_draws (s : State) (r : DReg) (v : Word) : (s.setDreg16 r v).draws = s.draws := by cases r <;> rfl

/-! `State.setDreg8`. -/

@[simp] theorem State.setDreg8_sb (s : State) (r : DReg) (v : Byte) : (s.setDreg8 r v).sb = s.sb := by cases r <;> rfl
@[simp] theorem State.setDreg8_usp (s : State) (r : DReg) (v : Byte) : (s.setDreg8 r v).usp = s.usp := by cases r <;> rfl
@[simp] theorem State.setDreg8_isp (s : State) (r : DReg) (v : Byte) : (s.setDreg8 r v).isp = s.isp := by cases r <;> rfl
@[simp] theorem State.setDreg8_intb (s : State) (r : DReg) (v : Byte) : (s.setDreg8 r v).intb = s.intb := by cases r <;> rfl
@[simp] theorem State.setDreg8_pc (s : State) (r : DReg) (v : Byte) : (s.setDreg8 r v).pc = s.pc := by cases r <;> rfl
@[simp] theorem State.setDreg8_flg (s : State) (r : DReg) (v : Byte) : (s.setDreg8 r v).flg = s.flg := by cases r <;> rfl
@[simp] theorem State.setDreg8_mem (s : State) (r : DReg) (v : Byte) : (s.setDreg8 r v).mem = s.mem := by cases r <;> rfl
@[simp] theorem State.setDreg8_intShadow (s : State) (r : DReg) (v : Byte) : (s.setDreg8 r v).intShadow = s.intShadow := by cases r <;> rfl
@[simp] theorem State.setDreg8_waiting (s : State) (r : DReg) (v : Byte) : (s.setDreg8 r v).waiting = s.waiting := by cases r <;> rfl
@[simp] theorem State.setDreg8_prevI (s : State) (r : DReg) (v : Byte) : (s.setDreg8 r v).prevI = s.prevI := by cases r <;> rfl
@[simp] theorem State.setDreg8_iplOld (s : State) (r : DReg) (v : Byte) : (s.setDreg8 r v).iplOld = s.iplOld := by cases r <;> rfl
@[simp] theorem State.setDreg8_resume (s : State) (r : DReg) (v : Byte) : (s.setDreg8 r v).resume = s.resume := by cases r <;> rfl
@[simp] theorem State.setDreg8_queue (s : State) (r : DReg) (v : Byte) : (s.setDreg8 r v).queue = s.queue := by cases r <;> rfl
@[simp] theorem State.setDreg8_sources (s : State) (r : DReg) (v : Byte) : (s.setDreg8 r v).sources = s.sources := by cases r <;> rfl
@[simp] theorem State.setDreg8_nmiReq (s : State) (r : DReg) (v : Byte) : (s.setDreg8 r v).nmiReq = s.nmiReq := by cases r <;> rfl
@[simp] theorem State.setDreg8_wdtReq (s : State) (r : DReg) (v : Byte) : (s.setDreg8 r v).wdtReq = s.wdtReq := by cases r <;> rfl
@[simp] theorem State.setDreg8_dbcReq (s : State) (r : DReg) (v : Byte) : (s.setDreg8 r v).dbcReq = s.dbcReq := by cases r <;> rfl
@[simp] theorem State.setDreg8_stepReq (s : State) (r : DReg) (v : Byte) : (s.setDreg8 r v).stepReq = s.stepReq := by cases r <;> rfl
@[simp] theorem State.setDreg8_resetReq (s : State) (r : DReg) (v : Byte) : (s.setDreg8 r v).resetReq = s.resetReq := by cases r <;> rfl
@[simp] theorem State.setDreg8_matchRegs (s : State) (r : DReg) (v : Byte) : (s.setDreg8 r v).matchRegs = s.matchRegs := by cases r <;> rfl
@[simp] theorem State.setDreg8_matchReq (s : State) (r : DReg) (v : Byte) : (s.setDreg8 r v).matchReq = s.matchReq := by cases r <;> rfl
@[simp] theorem State.setDreg8_sfrTrace (s : State) (r : DReg) (v : Byte) : (s.setDreg8 r v).sfrTrace = s.sfrTrace := by cases r <;> rfl
@[simp] theorem State.setDreg8_product (s : State) (r : DReg) (v : Byte) : (s.setDreg8 r v).product = s.product := by cases r <;> rfl
@[simp] theorem State.setDreg8_draws (s : State) (r : DReg) (v : Byte) : (s.setDreg8 r v).draws = s.draws := by cases r <;> rfl

/-! `State.setReg16`. -/

@[simp] theorem State.setReg16_sb (s : State) (r : Reg16) (v : Word) : (s.setReg16 r v).sb = s.sb := by cases r <;> rfl
@[simp] theorem State.setReg16_usp (s : State) (r : Reg16) (v : Word) : (s.setReg16 r v).usp = s.usp := by cases r <;> rfl
@[simp] theorem State.setReg16_isp (s : State) (r : Reg16) (v : Word) : (s.setReg16 r v).isp = s.isp := by cases r <;> rfl
@[simp] theorem State.setReg16_intb (s : State) (r : Reg16) (v : Word) : (s.setReg16 r v).intb = s.intb := by cases r <;> rfl
@[simp] theorem State.setReg16_pc (s : State) (r : Reg16) (v : Word) : (s.setReg16 r v).pc = s.pc := by cases r <;> rfl
@[simp] theorem State.setReg16_flg (s : State) (r : Reg16) (v : Word) : (s.setReg16 r v).flg = s.flg := by cases r <;> rfl
@[simp] theorem State.setReg16_mem (s : State) (r : Reg16) (v : Word) : (s.setReg16 r v).mem = s.mem := by cases r <;> rfl
@[simp] theorem State.setReg16_intShadow (s : State) (r : Reg16) (v : Word) : (s.setReg16 r v).intShadow = s.intShadow := by cases r <;> rfl
@[simp] theorem State.setReg16_waiting (s : State) (r : Reg16) (v : Word) : (s.setReg16 r v).waiting = s.waiting := by cases r <;> rfl
@[simp] theorem State.setReg16_prevI (s : State) (r : Reg16) (v : Word) : (s.setReg16 r v).prevI = s.prevI := by cases r <;> rfl
@[simp] theorem State.setReg16_iplOld (s : State) (r : Reg16) (v : Word) : (s.setReg16 r v).iplOld = s.iplOld := by cases r <;> rfl
@[simp] theorem State.setReg16_resume (s : State) (r : Reg16) (v : Word) : (s.setReg16 r v).resume = s.resume := by cases r <;> rfl
@[simp] theorem State.setReg16_queue (s : State) (r : Reg16) (v : Word) : (s.setReg16 r v).queue = s.queue := by cases r <;> rfl
@[simp] theorem State.setReg16_sources (s : State) (r : Reg16) (v : Word) : (s.setReg16 r v).sources = s.sources := by cases r <;> rfl
@[simp] theorem State.setReg16_nmiReq (s : State) (r : Reg16) (v : Word) : (s.setReg16 r v).nmiReq = s.nmiReq := by cases r <;> rfl
@[simp] theorem State.setReg16_wdtReq (s : State) (r : Reg16) (v : Word) : (s.setReg16 r v).wdtReq = s.wdtReq := by cases r <;> rfl
@[simp] theorem State.setReg16_dbcReq (s : State) (r : Reg16) (v : Word) : (s.setReg16 r v).dbcReq = s.dbcReq := by cases r <;> rfl
@[simp] theorem State.setReg16_stepReq (s : State) (r : Reg16) (v : Word) : (s.setReg16 r v).stepReq = s.stepReq := by cases r <;> rfl
@[simp] theorem State.setReg16_resetReq (s : State) (r : Reg16) (v : Word) : (s.setReg16 r v).resetReq = s.resetReq := by cases r <;> rfl
@[simp] theorem State.setReg16_matchRegs (s : State) (r : Reg16) (v : Word) : (s.setReg16 r v).matchRegs = s.matchRegs := by cases r <;> rfl
@[simp] theorem State.setReg16_matchReq (s : State) (r : Reg16) (v : Word) : (s.setReg16 r v).matchReq = s.matchReq := by cases r <;> rfl
@[simp] theorem State.setReg16_sfrTrace (s : State) (r : Reg16) (v : Word) : (s.setReg16 r v).sfrTrace = s.sfrTrace := by cases r <;> rfl
@[simp] theorem State.setReg16_product (s : State) (r : Reg16) (v : Word) : (s.setReg16 r v).product = s.product := by cases r <;> rfl
@[simp] theorem State.setReg16_draws (s : State) (r : Reg16) (v : Word) : (s.setReg16 r v).draws = s.draws := by cases r <;> rfl

/-! `State.setPair`. -/

@[simp] theorem State.setPair_sb (s : State) (r : Pair) (v : BitVec 32) : (s.setPair r v).sb = s.sb := by cases r <;> rfl
@[simp] theorem State.setPair_usp (s : State) (r : Pair) (v : BitVec 32) : (s.setPair r v).usp = s.usp := by cases r <;> rfl
@[simp] theorem State.setPair_isp (s : State) (r : Pair) (v : BitVec 32) : (s.setPair r v).isp = s.isp := by cases r <;> rfl
@[simp] theorem State.setPair_intb (s : State) (r : Pair) (v : BitVec 32) : (s.setPair r v).intb = s.intb := by cases r <;> rfl
@[simp] theorem State.setPair_pc (s : State) (r : Pair) (v : BitVec 32) : (s.setPair r v).pc = s.pc := by cases r <;> rfl
@[simp] theorem State.setPair_flg (s : State) (r : Pair) (v : BitVec 32) : (s.setPair r v).flg = s.flg := by cases r <;> rfl
@[simp] theorem State.setPair_mem (s : State) (r : Pair) (v : BitVec 32) : (s.setPair r v).mem = s.mem := by cases r <;> rfl
@[simp] theorem State.setPair_intShadow (s : State) (r : Pair) (v : BitVec 32) : (s.setPair r v).intShadow = s.intShadow := by cases r <;> rfl
@[simp] theorem State.setPair_waiting (s : State) (r : Pair) (v : BitVec 32) : (s.setPair r v).waiting = s.waiting := by cases r <;> rfl
@[simp] theorem State.setPair_prevI (s : State) (r : Pair) (v : BitVec 32) : (s.setPair r v).prevI = s.prevI := by cases r <;> rfl
@[simp] theorem State.setPair_iplOld (s : State) (r : Pair) (v : BitVec 32) : (s.setPair r v).iplOld = s.iplOld := by cases r <;> rfl
@[simp] theorem State.setPair_resume (s : State) (r : Pair) (v : BitVec 32) : (s.setPair r v).resume = s.resume := by cases r <;> rfl
@[simp] theorem State.setPair_queue (s : State) (r : Pair) (v : BitVec 32) : (s.setPair r v).queue = s.queue := by cases r <;> rfl
@[simp] theorem State.setPair_sources (s : State) (r : Pair) (v : BitVec 32) : (s.setPair r v).sources = s.sources := by cases r <;> rfl
@[simp] theorem State.setPair_nmiReq (s : State) (r : Pair) (v : BitVec 32) : (s.setPair r v).nmiReq = s.nmiReq := by cases r <;> rfl
@[simp] theorem State.setPair_wdtReq (s : State) (r : Pair) (v : BitVec 32) : (s.setPair r v).wdtReq = s.wdtReq := by cases r <;> rfl
@[simp] theorem State.setPair_dbcReq (s : State) (r : Pair) (v : BitVec 32) : (s.setPair r v).dbcReq = s.dbcReq := by cases r <;> rfl
@[simp] theorem State.setPair_stepReq (s : State) (r : Pair) (v : BitVec 32) : (s.setPair r v).stepReq = s.stepReq := by cases r <;> rfl
@[simp] theorem State.setPair_resetReq (s : State) (r : Pair) (v : BitVec 32) : (s.setPair r v).resetReq = s.resetReq := by cases r <;> rfl
@[simp] theorem State.setPair_matchRegs (s : State) (r : Pair) (v : BitVec 32) : (s.setPair r v).matchRegs = s.matchRegs := by cases r <;> rfl
@[simp] theorem State.setPair_matchReq (s : State) (r : Pair) (v : BitVec 32) : (s.setPair r v).matchReq = s.matchReq := by cases r <;> rfl
@[simp] theorem State.setPair_sfrTrace (s : State) (r : Pair) (v : BitVec 32) : (s.setPair r v).sfrTrace = s.sfrTrace := by cases r <;> rfl
@[simp] theorem State.setPair_product (s : State) (r : Pair) (v : BitVec 32) : (s.setPair r v).product = s.product := by cases r <;> rfl
@[simp] theorem State.setPair_draws (s : State) (r : Pair) (v : BitVec 32) : (s.setPair r v).draws = s.draws := by cases r <;> rfl

/-! `State.advance`. -/

@[simp] theorem State.advance_bank0 (s : State) (n : Nat) : (s.advance n).bank0 = s.bank0 := rfl
@[simp] theorem State.advance_bank1 (s : State) (n : Nat) : (s.advance n).bank1 = s.bank1 := rfl
@[simp] theorem State.advance_sb (s : State) (n : Nat) : (s.advance n).sb = s.sb := rfl
@[simp] theorem State.advance_usp (s : State) (n : Nat) : (s.advance n).usp = s.usp := rfl
@[simp] theorem State.advance_isp (s : State) (n : Nat) : (s.advance n).isp = s.isp := rfl
@[simp] theorem State.advance_intb (s : State) (n : Nat) : (s.advance n).intb = s.intb := rfl
@[simp] theorem State.advance_pc (s : State) (n : Nat) : (s.advance n).pc = s.next n := rfl
@[simp] theorem State.advance_flg (s : State) (n : Nat) : (s.advance n).flg = s.flg := rfl
@[simp] theorem State.advance_mem (s : State) (n : Nat) : (s.advance n).mem = s.mem := rfl
@[simp] theorem State.advance_intShadow (s : State) (n : Nat) : (s.advance n).intShadow = s.intShadow := rfl
@[simp] theorem State.advance_waiting (s : State) (n : Nat) : (s.advance n).waiting = s.waiting := rfl
@[simp] theorem State.advance_prevI (s : State) (n : Nat) : (s.advance n).prevI = s.prevI := rfl
@[simp] theorem State.advance_iplOld (s : State) (n : Nat) : (s.advance n).iplOld = s.iplOld := rfl
@[simp] theorem State.advance_resume (s : State) (n : Nat) : (s.advance n).resume = s.resume := rfl
@[simp] theorem State.advance_queue (s : State) (n : Nat) : (s.advance n).queue = ahead (s.next n) s.queue := rfl
@[simp] theorem State.advance_sources (s : State) (n : Nat) : (s.advance n).sources = s.sources := rfl
@[simp] theorem State.advance_nmiReq (s : State) (n : Nat) : (s.advance n).nmiReq = s.nmiReq := rfl
@[simp] theorem State.advance_wdtReq (s : State) (n : Nat) : (s.advance n).wdtReq = s.wdtReq := rfl
@[simp] theorem State.advance_dbcReq (s : State) (n : Nat) : (s.advance n).dbcReq = s.dbcReq := rfl
@[simp] theorem State.advance_stepReq (s : State) (n : Nat) : (s.advance n).stepReq = s.stepReq := rfl
@[simp] theorem State.advance_resetReq (s : State) (n : Nat) : (s.advance n).resetReq = s.resetReq := rfl
@[simp] theorem State.advance_matchRegs (s : State) (n : Nat) : (s.advance n).matchRegs = s.matchRegs := rfl
@[simp] theorem State.advance_matchReq (s : State) (n : Nat) : (s.advance n).matchReq = s.matchReq := rfl
@[simp] theorem State.advance_sfrTrace (s : State) (n : Nat) : (s.advance n).sfrTrace = s.sfrTrace := rfl
@[simp] theorem State.advance_product (s : State) (n : Nat) : (s.advance n).product = s.product := rfl
@[simp] theorem State.advance_draws (s : State) (n : Nat) : (s.advance n).draws = s.draws := rfl

/-! `State.jump`. -/

@[simp] theorem State.jump_bank0 (s : State) (a : Addr) : (s.jump a).bank0 = s.bank0 := rfl
@[simp] theorem State.jump_bank1 (s : State) (a : Addr) : (s.jump a).bank1 = s.bank1 := rfl
@[simp] theorem State.jump_sb (s : State) (a : Addr) : (s.jump a).sb = s.sb := rfl
@[simp] theorem State.jump_usp (s : State) (a : Addr) : (s.jump a).usp = s.usp := rfl
@[simp] theorem State.jump_isp (s : State) (a : Addr) : (s.jump a).isp = s.isp := rfl
@[simp] theorem State.jump_intb (s : State) (a : Addr) : (s.jump a).intb = s.intb := rfl
@[simp] theorem State.jump_pc (s : State) (a : Addr) : (s.jump a).pc = a := rfl
@[simp] theorem State.jump_flg (s : State) (a : Addr) : (s.jump a).flg = s.flg := rfl
@[simp] theorem State.jump_mem (s : State) (a : Addr) : (s.jump a).mem = s.mem := rfl
@[simp] theorem State.jump_intShadow (s : State) (a : Addr) : (s.jump a).intShadow = s.intShadow := rfl
@[simp] theorem State.jump_waiting (s : State) (a : Addr) : (s.jump a).waiting = s.waiting := rfl
@[simp] theorem State.jump_prevI (s : State) (a : Addr) : (s.jump a).prevI = s.prevI := rfl
@[simp] theorem State.jump_iplOld (s : State) (a : Addr) : (s.jump a).iplOld = s.iplOld := rfl
@[simp] theorem State.jump_resume (s : State) (a : Addr) : (s.jump a).resume = s.resume := rfl
@[simp] theorem State.jump_queue (s : State) (a : Addr) : (s.jump a).queue = [] := rfl
@[simp] theorem State.jump_sources (s : State) (a : Addr) : (s.jump a).sources = s.sources := rfl
@[simp] theorem State.jump_nmiReq (s : State) (a : Addr) : (s.jump a).nmiReq = s.nmiReq := rfl
@[simp] theorem State.jump_wdtReq (s : State) (a : Addr) : (s.jump a).wdtReq = s.wdtReq := rfl
@[simp] theorem State.jump_dbcReq (s : State) (a : Addr) : (s.jump a).dbcReq = s.dbcReq := rfl
@[simp] theorem State.jump_stepReq (s : State) (a : Addr) : (s.jump a).stepReq = s.stepReq := rfl
@[simp] theorem State.jump_resetReq (s : State) (a : Addr) : (s.jump a).resetReq = s.resetReq := rfl
@[simp] theorem State.jump_matchRegs (s : State) (a : Addr) : (s.jump a).matchRegs = s.matchRegs := rfl
@[simp] theorem State.jump_matchReq (s : State) (a : Addr) : (s.jump a).matchReq = s.matchReq := rfl
@[simp] theorem State.jump_sfrTrace (s : State) (a : Addr) : (s.jump a).sfrTrace = s.sfrTrace := rfl
@[simp] theorem State.jump_product (s : State) (a : Addr) : (s.jump a).product = s.product := rfl
@[simp] theorem State.jump_draws (s : State) (a : Addr) : (s.jump a).draws = s.draws := rfl

/-! `State.stay`. -/

@[simp] theorem State.stay_bank0 (s : State) (n : Nat) : (s.stay n).bank0 = s.bank0 := rfl
@[simp] theorem State.stay_bank1 (s : State) (n : Nat) : (s.stay n).bank1 = s.bank1 := rfl
@[simp] theorem State.stay_sb (s : State) (n : Nat) : (s.stay n).sb = s.sb := rfl
@[simp] theorem State.stay_usp (s : State) (n : Nat) : (s.stay n).usp = s.usp := rfl
@[simp] theorem State.stay_isp (s : State) (n : Nat) : (s.stay n).isp = s.isp := rfl
@[simp] theorem State.stay_intb (s : State) (n : Nat) : (s.stay n).intb = s.intb := rfl
@[simp] theorem State.stay_pc (s : State) (n : Nat) : (s.stay n).pc = s.pc := rfl
@[simp] theorem State.stay_flg (s : State) (n : Nat) : (s.stay n).flg = s.flg := rfl
@[simp] theorem State.stay_mem (s : State) (n : Nat) : (s.stay n).mem = s.mem := rfl
@[simp] theorem State.stay_intShadow (s : State) (n : Nat) : (s.stay n).intShadow = s.intShadow := rfl
@[simp] theorem State.stay_waiting (s : State) (n : Nat) : (s.stay n).waiting = s.waiting := rfl
@[simp] theorem State.stay_prevI (s : State) (n : Nat) : (s.stay n).prevI = s.prevI := rfl
@[simp] theorem State.stay_iplOld (s : State) (n : Nat) : (s.stay n).iplOld = s.iplOld := rfl
@[simp] theorem State.stay_resume (s : State) (n : Nat) : (s.stay n).resume = s.resume := rfl
@[simp] theorem State.stay_queue (s : State) (n : Nat) : (s.stay n).queue = ahead (s.next n) s.queue := rfl
@[simp] theorem State.stay_sources (s : State) (n : Nat) : (s.stay n).sources = s.sources := rfl
@[simp] theorem State.stay_nmiReq (s : State) (n : Nat) : (s.stay n).nmiReq = s.nmiReq := rfl
@[simp] theorem State.stay_wdtReq (s : State) (n : Nat) : (s.stay n).wdtReq = s.wdtReq := rfl
@[simp] theorem State.stay_dbcReq (s : State) (n : Nat) : (s.stay n).dbcReq = s.dbcReq := rfl
@[simp] theorem State.stay_stepReq (s : State) (n : Nat) : (s.stay n).stepReq = s.stepReq := rfl
@[simp] theorem State.stay_resetReq (s : State) (n : Nat) : (s.stay n).resetReq = s.resetReq := rfl
@[simp] theorem State.stay_matchRegs (s : State) (n : Nat) : (s.stay n).matchRegs = s.matchRegs := rfl
@[simp] theorem State.stay_matchReq (s : State) (n : Nat) : (s.stay n).matchReq = s.matchReq := rfl
@[simp] theorem State.stay_sfrTrace (s : State) (n : Nat) : (s.stay n).sfrTrace = s.sfrTrace := rfl
@[simp] theorem State.stay_product (s : State) (n : Nat) : (s.stay n).product = s.product := rfl
@[simp] theorem State.stay_draws (s : State) (n : Nat) : (s.stay n).draws = s.draws := rfl

/-! `State.openIpl`. -/

@[simp] theorem State.openIpl_bank0 (s : State) (n : Nat) : (s.openIpl n).bank0 = s.bank0 := rfl
@[simp] theorem State.openIpl_bank1 (s : State) (n : Nat) : (s.openIpl n).bank1 = s.bank1 := rfl
@[simp] theorem State.openIpl_sb (s : State) (n : Nat) : (s.openIpl n).sb = s.sb := rfl
@[simp] theorem State.openIpl_usp (s : State) (n : Nat) : (s.openIpl n).usp = s.usp := rfl
@[simp] theorem State.openIpl_isp (s : State) (n : Nat) : (s.openIpl n).isp = s.isp := rfl
@[simp] theorem State.openIpl_intb (s : State) (n : Nat) : (s.openIpl n).intb = s.intb := rfl
@[simp] theorem State.openIpl_pc (s : State) (n : Nat) : (s.openIpl n).pc = s.pc := rfl
@[simp] theorem State.openIpl_flg (s : State) (n : Nat) : (s.openIpl n).flg = s.flg := rfl
@[simp] theorem State.openIpl_mem (s : State) (n : Nat) : (s.openIpl n).mem = s.mem := rfl
@[simp] theorem State.openIpl_intShadow (s : State) (n : Nat) : (s.openIpl n).intShadow = s.intShadow := rfl
@[simp] theorem State.openIpl_waiting (s : State) (n : Nat) : (s.openIpl n).waiting = s.waiting := rfl
@[simp] theorem State.openIpl_prevI (s : State) (n : Nat) : (s.openIpl n).prevI = s.prevI := rfl
@[simp] theorem State.openIpl_iplOld (s : State) (n : Nat) : (s.openIpl n).iplOld = (s.flg.ipl, n + 1) :: s.iplOld := rfl
@[simp] theorem State.openIpl_resume (s : State) (n : Nat) : (s.openIpl n).resume = s.resume := rfl
@[simp] theorem State.openIpl_queue (s : State) (n : Nat) : (s.openIpl n).queue = s.queue := rfl
@[simp] theorem State.openIpl_sources (s : State) (n : Nat) : (s.openIpl n).sources = s.sources := rfl
@[simp] theorem State.openIpl_nmiReq (s : State) (n : Nat) : (s.openIpl n).nmiReq = s.nmiReq := rfl
@[simp] theorem State.openIpl_wdtReq (s : State) (n : Nat) : (s.openIpl n).wdtReq = s.wdtReq := rfl
@[simp] theorem State.openIpl_dbcReq (s : State) (n : Nat) : (s.openIpl n).dbcReq = s.dbcReq := rfl
@[simp] theorem State.openIpl_stepReq (s : State) (n : Nat) : (s.openIpl n).stepReq = s.stepReq := rfl
@[simp] theorem State.openIpl_resetReq (s : State) (n : Nat) : (s.openIpl n).resetReq = s.resetReq := rfl
@[simp] theorem State.openIpl_matchRegs (s : State) (n : Nat) : (s.openIpl n).matchRegs = s.matchRegs := rfl
@[simp] theorem State.openIpl_matchReq (s : State) (n : Nat) : (s.openIpl n).matchReq = s.matchReq := rfl
@[simp] theorem State.openIpl_sfrTrace (s : State) (n : Nat) : (s.openIpl n).sfrTrace = s.sfrTrace := rfl
@[simp] theorem State.openIpl_product (s : State) (n : Nat) : (s.openIpl n).product = s.product := rfl
@[simp] theorem State.openIpl_draws (s : State) (n : Nat) : (s.openIpl n).draws = s.draws := rfl

/-! `stored`. -/

@[simp] theorem stored_bank0 (k : StoreKind) (a : Addr) (v : Byte) (s : State) : (stored k a v s).bank0 = s.bank0 := rfl
@[simp] theorem stored_bank1 (k : StoreKind) (a : Addr) (v : Byte) (s : State) : (stored k a v s).bank1 = s.bank1 := rfl
@[simp] theorem stored_sb (k : StoreKind) (a : Addr) (v : Byte) (s : State) : (stored k a v s).sb = s.sb := rfl
@[simp] theorem stored_usp (k : StoreKind) (a : Addr) (v : Byte) (s : State) : (stored k a v s).usp = s.usp := rfl
@[simp] theorem stored_isp (k : StoreKind) (a : Addr) (v : Byte) (s : State) : (stored k a v s).isp = s.isp := rfl
@[simp] theorem stored_intb (k : StoreKind) (a : Addr) (v : Byte) (s : State) : (stored k a v s).intb = s.intb := rfl
@[simp] theorem stored_pc (k : StoreKind) (a : Addr) (v : Byte) (s : State) : (stored k a v s).pc = s.pc := rfl
@[simp] theorem stored_flg (k : StoreKind) (a : Addr) (v : Byte) (s : State) : (stored k a v s).flg = s.flg := rfl
@[simp] theorem stored_mem (k : StoreKind) (a : Addr) (v : Byte) (s : State) : (stored k a v s).mem = memSet s.mem a.toNat v := rfl
@[simp] theorem stored_intShadow (k : StoreKind) (a : Addr) (v : Byte) (s : State) : (stored k a v s).intShadow = s.intShadow := rfl
@[simp] theorem stored_waiting (k : StoreKind) (a : Addr) (v : Byte) (s : State) : (stored k a v s).waiting = s.waiting := rfl
@[simp] theorem stored_prevI (k : StoreKind) (a : Addr) (v : Byte) (s : State) : (stored k a v s).prevI = s.prevI := rfl
@[simp] theorem stored_iplOld (k : StoreKind) (a : Addr) (v : Byte) (s : State) : (stored k a v s).iplOld = s.iplOld := rfl
@[simp] theorem stored_resume (k : StoreKind) (a : Addr) (v : Byte) (s : State) : (stored k a v s).resume = s.resume := rfl
@[simp] theorem stored_nmiReq (k : StoreKind) (a : Addr) (v : Byte) (s : State) : (stored k a v s).nmiReq = s.nmiReq := rfl
@[simp] theorem stored_wdtReq (k : StoreKind) (a : Addr) (v : Byte) (s : State) : (stored k a v s).wdtReq = s.wdtReq := rfl
@[simp] theorem stored_dbcReq (k : StoreKind) (a : Addr) (v : Byte) (s : State) : (stored k a v s).dbcReq = s.dbcReq := rfl
@[simp] theorem stored_stepReq (k : StoreKind) (a : Addr) (v : Byte) (s : State) : (stored k a v s).stepReq = s.stepReq := rfl
@[simp] theorem stored_resetReq (k : StoreKind) (a : Addr) (v : Byte) (s : State) : (stored k a v s).resetReq = s.resetReq := rfl
@[simp] theorem stored_matchRegs (k : StoreKind) (a : Addr) (v : Byte) (s : State) : (stored k a v s).matchRegs = s.matchRegs := rfl
@[simp] theorem stored_matchReq (k : StoreKind) (a : Addr) (v : Byte) (s : State) : (stored k a v s).matchReq = s.matchReq := rfl
@[simp] theorem stored_sfrTrace (k : StoreKind) (a : Addr) (v : Byte) (s : State) : (stored k a v s).sfrTrace = s.sfrTrace := rfl
@[simp] theorem stored_product (k : StoreKind) (a : Addr) (v : Byte) (s : State) : (stored k a v s).product = s.product := rfl

/-! `readByte_state`. -/

@[simp] theorem readByte_state_bank0 (a : Addr) (s : State) : (readByte a s).2.bank0 = s.bank0 := rfl
@[simp] theorem readByte_state_bank1 (a : Addr) (s : State) : (readByte a s).2.bank1 = s.bank1 := rfl
@[simp] theorem readByte_state_sb (a : Addr) (s : State) : (readByte a s).2.sb = s.sb := rfl
@[simp] theorem readByte_state_usp (a : Addr) (s : State) : (readByte a s).2.usp = s.usp := rfl
@[simp] theorem readByte_state_isp (a : Addr) (s : State) : (readByte a s).2.isp = s.isp := rfl
@[simp] theorem readByte_state_intb (a : Addr) (s : State) : (readByte a s).2.intb = s.intb := rfl
@[simp] theorem readByte_state_pc (a : Addr) (s : State) : (readByte a s).2.pc = s.pc := rfl
@[simp] theorem readByte_state_flg (a : Addr) (s : State) : (readByte a s).2.flg = s.flg := rfl
@[simp] theorem readByte_state_mem (a : Addr) (s : State) : (readByte a s).2.mem = s.mem := rfl
@[simp] theorem readByte_state_intShadow (a : Addr) (s : State) : (readByte a s).2.intShadow = s.intShadow := rfl
@[simp] theorem readByte_state_waiting (a : Addr) (s : State) : (readByte a s).2.waiting = s.waiting := rfl
@[simp] theorem readByte_state_prevI (a : Addr) (s : State) : (readByte a s).2.prevI = s.prevI := rfl
@[simp] theorem readByte_state_iplOld (a : Addr) (s : State) : (readByte a s).2.iplOld = s.iplOld := rfl
@[simp] theorem readByte_state_resume (a : Addr) (s : State) : (readByte a s).2.resume = s.resume := rfl
@[simp] theorem readByte_state_queue (a : Addr) (s : State) : (readByte a s).2.queue = s.queue := rfl
@[simp] theorem readByte_state_sources (a : Addr) (s : State) : (readByte a s).2.sources = (if a = 0#20 then clearBest s.sources else raiseAt a (Config.freeBit s.draws) s.sources) := rfl
@[simp] theorem readByte_state_nmiReq (a : Addr) (s : State) : (readByte a s).2.nmiReq = s.nmiReq := rfl
@[simp] theorem readByte_state_wdtReq (a : Addr) (s : State) : (readByte a s).2.wdtReq = s.wdtReq := rfl
@[simp] theorem readByte_state_dbcReq (a : Addr) (s : State) : (readByte a s).2.dbcReq = s.dbcReq := rfl
@[simp] theorem readByte_state_stepReq (a : Addr) (s : State) : (readByte a s).2.stepReq = s.stepReq := rfl
@[simp] theorem readByte_state_resetReq (a : Addr) (s : State) : (readByte a s).2.resetReq = s.resetReq := rfl
@[simp] theorem readByte_state_matchRegs (a : Addr) (s : State) : (readByte a s).2.matchRegs = s.matchRegs := rfl
@[simp] theorem readByte_state_matchReq (a : Addr) (s : State) : (readByte a s).2.matchReq = s.matchReq := rfl
@[simp] theorem readByte_state_product (a : Addr) (s : State) : (readByte a s).2.product = s.product := rfl

/-! `State.record`. -/

@[simp] theorem State.record_bank0 (d : Direction) (a : Addr) (n : Nat) (v : BitVec 32) (s : State) : (s.record d a n v).bank0 = s.bank0 := rfl
@[simp] theorem State.record_bank1 (d : Direction) (a : Addr) (n : Nat) (v : BitVec 32) (s : State) : (s.record d a n v).bank1 = s.bank1 := rfl
@[simp] theorem State.record_sb (d : Direction) (a : Addr) (n : Nat) (v : BitVec 32) (s : State) : (s.record d a n v).sb = s.sb := rfl
@[simp] theorem State.record_usp (d : Direction) (a : Addr) (n : Nat) (v : BitVec 32) (s : State) : (s.record d a n v).usp = s.usp := rfl
@[simp] theorem State.record_isp (d : Direction) (a : Addr) (n : Nat) (v : BitVec 32) (s : State) : (s.record d a n v).isp = s.isp := rfl
@[simp] theorem State.record_intb (d : Direction) (a : Addr) (n : Nat) (v : BitVec 32) (s : State) : (s.record d a n v).intb = s.intb := rfl
@[simp] theorem State.record_pc (d : Direction) (a : Addr) (n : Nat) (v : BitVec 32) (s : State) : (s.record d a n v).pc = s.pc := rfl
@[simp] theorem State.record_flg (d : Direction) (a : Addr) (n : Nat) (v : BitVec 32) (s : State) : (s.record d a n v).flg = s.flg := rfl
@[simp] theorem State.record_mem (d : Direction) (a : Addr) (n : Nat) (v : BitVec 32) (s : State) : (s.record d a n v).mem = s.mem := rfl
@[simp] theorem State.record_intShadow (d : Direction) (a : Addr) (n : Nat) (v : BitVec 32) (s : State) : (s.record d a n v).intShadow = s.intShadow := rfl
@[simp] theorem State.record_waiting (d : Direction) (a : Addr) (n : Nat) (v : BitVec 32) (s : State) : (s.record d a n v).waiting = s.waiting := rfl
@[simp] theorem State.record_prevI (d : Direction) (a : Addr) (n : Nat) (v : BitVec 32) (s : State) : (s.record d a n v).prevI = s.prevI := rfl
@[simp] theorem State.record_iplOld (d : Direction) (a : Addr) (n : Nat) (v : BitVec 32) (s : State) : (s.record d a n v).iplOld = s.iplOld := rfl
@[simp] theorem State.record_resume (d : Direction) (a : Addr) (n : Nat) (v : BitVec 32) (s : State) : (s.record d a n v).resume = s.resume := rfl
@[simp] theorem State.record_queue (d : Direction) (a : Addr) (n : Nat) (v : BitVec 32) (s : State) : (s.record d a n v).queue = s.queue := rfl
@[simp] theorem State.record_sources (d : Direction) (a : Addr) (n : Nat) (v : BitVec 32) (s : State) : (s.record d a n v).sources = s.sources := rfl
@[simp] theorem State.record_nmiReq (d : Direction) (a : Addr) (n : Nat) (v : BitVec 32) (s : State) : (s.record d a n v).nmiReq = s.nmiReq := rfl
@[simp] theorem State.record_wdtReq (d : Direction) (a : Addr) (n : Nat) (v : BitVec 32) (s : State) : (s.record d a n v).wdtReq = s.wdtReq := rfl
@[simp] theorem State.record_dbcReq (d : Direction) (a : Addr) (n : Nat) (v : BitVec 32) (s : State) : (s.record d a n v).dbcReq = s.dbcReq := rfl
@[simp] theorem State.record_stepReq (d : Direction) (a : Addr) (n : Nat) (v : BitVec 32) (s : State) : (s.record d a n v).stepReq = s.stepReq := rfl
@[simp] theorem State.record_resetReq (d : Direction) (a : Addr) (n : Nat) (v : BitVec 32) (s : State) : (s.record d a n v).resetReq = s.resetReq := rfl
@[simp] theorem State.record_matchRegs (d : Direction) (a : Addr) (n : Nat) (v : BitVec 32) (s : State) : (s.record d a n v).matchRegs = s.matchRegs := rfl
@[simp] theorem State.record_matchReq (d : Direction) (a : Addr) (n : Nat) (v : BitVec 32) (s : State) : (s.record d a n v).matchReq = s.matchReq := rfl
@[simp] theorem State.record_product (d : Direction) (a : Addr) (n : Nat) (v : BitVec 32) (s : State) : (s.record d a n v).product = s.product := rfl
@[simp] theorem State.record_draws (d : Direction) (a : Addr) (n : Nat) (v : BitVec 32) (s : State) : (s.record d a n v).draws = s.draws := rfl

/-! `State.started`. -/

@[simp] theorem State.started_bank0 (s : State) : s.started.bank0 = s.bank0 := rfl
@[simp] theorem State.started_bank1 (s : State) : s.started.bank1 = s.bank1 := rfl
@[simp] theorem State.started_sb (s : State) : s.started.sb = s.sb := rfl
@[simp] theorem State.started_usp (s : State) : s.started.usp = s.usp := rfl
@[simp] theorem State.started_isp (s : State) : s.started.isp = s.isp := rfl
@[simp] theorem State.started_intb (s : State) : s.started.intb = s.intb := rfl
@[simp] theorem State.started_pc (s : State) : s.started.pc = s.pc := rfl
@[simp] theorem State.started_flg (s : State) : s.started.flg = s.flg := rfl
@[simp] theorem State.started_mem (s : State) : s.started.mem = s.mem := rfl
@[simp] theorem State.started_intShadow (s : State) : s.started.intShadow = s.intShadow := rfl
@[simp] theorem State.started_waiting (s : State) : s.started.waiting = s.waiting := rfl
@[simp] theorem State.started_prevI (s : State) : s.started.prevI = none := rfl
@[simp] theorem State.started_iplOld (s : State) : s.started.iplOld = s.iplOld := rfl
@[simp] theorem State.started_resume (s : State) : s.started.resume = none := rfl
@[simp] theorem State.started_queue (s : State) : s.started.queue = s.queue := rfl
@[simp] theorem State.started_sources (s : State) : s.started.sources = (if s.resume.isNone then s.sources.map lapseSource else s.sources) := rfl
@[simp] theorem State.started_nmiReq (s : State) : s.started.nmiReq = s.nmiReq := rfl
@[simp] theorem State.started_wdtReq (s : State) : s.started.wdtReq = s.wdtReq := rfl
@[simp] theorem State.started_dbcReq (s : State) : s.started.dbcReq = s.dbcReq := rfl
@[simp] theorem State.started_stepReq (s : State) : s.started.stepReq = s.stepReq := rfl
@[simp] theorem State.started_resetReq (s : State) : s.started.resetReq = s.resetReq := rfl
@[simp] theorem State.started_matchRegs (s : State) : s.started.matchRegs = s.matchRegs := rfl
@[simp] theorem State.started_matchReq (s : State) : s.started.matchReq = s.matchReq := rfl
@[simp] theorem State.started_sfrTrace (s : State) : s.started.sfrTrace = s.sfrTrace := rfl
@[simp] theorem State.started_product (s : State) : s.started.product = s.product := rfl
@[simp] theorem State.started_draws (s : State) : s.started.draws = s.draws := rfl

/-! `State.tick`. -/

@[simp] theorem State.tick_bank0 (s : State) : s.tick.bank0 = s.bank0 := rfl
@[simp] theorem State.tick_bank1 (s : State) : s.tick.bank1 = s.bank1 := rfl
@[simp] theorem State.tick_sb (s : State) : s.tick.sb = s.sb := rfl
@[simp] theorem State.tick_usp (s : State) : s.tick.usp = s.usp := rfl
@[simp] theorem State.tick_isp (s : State) : s.tick.isp = s.isp := rfl
@[simp] theorem State.tick_intb (s : State) : s.tick.intb = s.intb := rfl
@[simp] theorem State.tick_pc (s : State) : s.tick.pc = s.pc := rfl
@[simp] theorem State.tick_flg (s : State) : s.tick.flg = s.flg := rfl
@[simp] theorem State.tick_mem (s : State) : s.tick.mem = s.mem := rfl
@[simp] theorem State.tick_intShadow (s : State) : s.tick.intShadow = s.intShadow := rfl
@[simp] theorem State.tick_waiting (s : State) : s.tick.waiting = s.waiting := rfl
@[simp] theorem State.tick_prevI (s : State) : s.tick.prevI = s.prevI := rfl
@[simp] theorem State.tick_iplOld (s : State) : s.tick.iplOld = tickIpl s.iplOld := rfl
@[simp] theorem State.tick_resume (s : State) : s.tick.resume = s.resume := rfl
@[simp] theorem State.tick_queue (s : State) : s.tick.queue = s.queue := rfl
@[simp] theorem State.tick_sources (s : State) : s.tick.sources = s.sources.map tickSource := rfl
@[simp] theorem State.tick_nmiReq (s : State) : s.tick.nmiReq = s.nmiReq := rfl
@[simp] theorem State.tick_wdtReq (s : State) : s.tick.wdtReq = s.wdtReq := rfl
@[simp] theorem State.tick_dbcReq (s : State) : s.tick.dbcReq = s.dbcReq := rfl
@[simp] theorem State.tick_stepReq (s : State) : s.tick.stepReq = s.stepReq := rfl
@[simp] theorem State.tick_resetReq (s : State) : s.tick.resetReq = s.resetReq := rfl
@[simp] theorem State.tick_matchRegs (s : State) : s.tick.matchRegs = s.matchRegs := rfl
@[simp] theorem State.tick_matchReq (s : State) : s.tick.matchReq = s.matchReq := rfl
@[simp] theorem State.tick_sfrTrace (s : State) : s.tick.sfrTrace = s.sfrTrace := rfl
@[simp] theorem State.tick_product (s : State) : s.tick.product = s.product := rfl
@[simp] theorem State.tick_draws (s : State) : s.tick.draws = s.draws := rfl

/-! Updates that leave the selected bank, or the selected stack pointer, as it is. -/

@[simp] theorem State.setSp_bank (s : State) (v : Word) : (s.setSp v).bank = s.bank := rfl
@[simp] theorem State.advance_bank (s : State) (n : Nat) : (s.advance n).bank = s.bank := rfl
@[simp] theorem State.jump_bank (s : State) (a : Addr) : (s.jump a).bank = s.bank := rfl
@[simp] theorem State.stay_bank (s : State) (n : Nat) : (s.stay n).bank = s.bank := rfl
@[simp] theorem State.openIpl_bank (s : State) (n : Nat) : (s.openIpl n).bank = s.bank := rfl
@[simp] theorem stored_bank (k : StoreKind) (a : Addr) (v : Byte) (s : State) : (stored k a v s).bank = s.bank := rfl
@[simp] theorem readByte_state_bank (a : Addr) (s : State) : (readByte a s).2.bank = s.bank := rfl
@[simp] theorem State.record_bank (d : Direction) (a : Addr) (n : Nat) (v : BitVec 32) (s : State) : (s.record d a n v).bank = s.bank := rfl
@[simp] theorem State.started_bank (s : State) : s.started.bank = s.bank := rfl
@[simp] theorem State.tick_bank (s : State) : s.tick.bank = s.bank := rfl
@[simp] theorem State.setBank_sp (s : State) (k : Bank) : (s.setBank k).sp = s.sp := rfl
@[simp] theorem State.setFb_sp (s : State) (v : Word) : (s.setFb v).sp = s.sp := rfl
@[simp] theorem State.setAreg_sp (s : State) (r : AReg) (v : Word) : (s.setAreg r v).sp = s.sp := by cases r <;> rfl
@[simp] theorem State.setDreg16_sp (s : State) (r : DReg) (v : Word) : (s.setDreg16 r v).sp = s.sp := by cases r <;> rfl
@[simp] theorem State.setDreg8_sp (s : State) (r : DReg) (v : Byte) : (s.setDreg8 r v).sp = s.sp := by cases r <;> rfl
@[simp] theorem State.setReg16_sp (s : State) (r : Reg16) (v : Word) : (s.setReg16 r v).sp = s.sp := by cases r <;> rfl
@[simp] theorem State.setPair_sp (s : State) (r : Pair) (v : BitVec 32) : (s.setPair r v).sp = s.sp := by cases r <;> rfl
@[simp] theorem State.advance_sp (s : State) (n : Nat) : (s.advance n).sp = s.sp := rfl
@[simp] theorem State.jump_sp (s : State) (a : Addr) : (s.jump a).sp = s.sp := rfl
@[simp] theorem State.stay_sp (s : State) (n : Nat) : (s.stay n).sp = s.sp := rfl
@[simp] theorem State.openIpl_sp (s : State) (n : Nat) : (s.openIpl n).sp = s.sp := rfl
@[simp] theorem stored_sp (k : StoreKind) (a : Addr) (v : Byte) (s : State) : (stored k a v s).sp = s.sp := rfl
@[simp] theorem readByte_state_sp (a : Addr) (s : State) : (readByte a s).2.sp = s.sp := rfl
@[simp] theorem State.record_sp (d : Direction) (a : Addr) (n : Nat) (v : BitVec 32) (s : State) : (s.record d a n v).sp = s.sp := rfl
@[simp] theorem State.started_sp (s : State) : s.started.sp = s.sp := rfl
@[simp] theorem State.tick_sp (s : State) : s.tick.sp = s.sp := rfl

/-! The register read back through the same accessor. -/

@[simp] theorem State.setBank_bank (s : State) (k : Bank) : (s.setBank k).bank = k := by
  cases h : s.flg.b <;> simp [State.bank, State.setBank, h]

@[simp] theorem State.setBank_setBank (s : State) (k l : Bank) : (s.setBank k).setBank l = s.setBank l := by
  cases h : s.flg.b <;> simp [State.setBank, h]

@[simp] theorem State.setSp_sp (s : State) (v : Word) : (s.setSp v).sp = v := by
  cases h : s.flg.u <;> simp [State.sp, State.setSp, h]

@[simp] theorem State.setAreg_areg (s : State) (r : AReg) (v : Word) : (s.setAreg r v).areg r = v := by
  cases r <;> simp [State.areg, State.setAreg]

@[simp] theorem State.setDreg16_dreg16 (s : State) (r : DReg) (v : Word) : (s.setDreg16 r v).dreg16 r = v := by
  cases r <;> simp [State.dreg16, State.setDreg16]

@[simp] theorem State.setReg16_reg16 (s : State) (r : Reg16) (v : Word) : (s.setReg16 r v).reg16 r = v := by
  cases r <;> simp [State.reg16, State.setReg16]

@[simp] theorem hiByte_append (h l : Byte) : hiByte (h ++ l) = h := by
  unfold hiByte; apply BitVec.eq_of_getLsbD_eq; intro i hi
  rw [BitVec.getLsbD_extractLsb', BitVec.getLsbD_append]; simp [hi]

@[simp] theorem loByte_append (h l : Byte) : loByte (h ++ l) = l := by
  unfold loByte; apply BitVec.eq_of_getLsbD_eq; intro i hi
  rw [BitVec.getLsbD_extractLsb', BitVec.getLsbD_append]; simp [hi]

@[simp] theorem hiByte_loByte (v : Word) : hiByte v ++ loByte v = v := by
  unfold hiByte loByte
  apply BitVec.eq_of_getLsbD_eq
  intro i hi
  simp only [BitVec.getLsbD_append, BitVec.getLsbD_extractLsb']
  by_cases h : i < 8
  · simp [h]
  · have : i - 8 < 8 := by omega
    simp [h, this, show 8 + (i - 8) = i by omega]

@[simp] theorem State.setDreg8_dreg8 (s : State) (r : DReg) (v : Byte) : (s.setDreg8 r v).dreg8 r = v := by
  cases r <;> simp [State.dreg8, State.setDreg8]

@[simp] theorem State.setFb_fb (s : State) (v : Word) : (s.setFb v).bank.fb = v := by simp [State.setFb]

end Sys2Proof.Machine
end

