-- ==== Sys2Proof/Laws/Ops.lean ====
section
/-! SUPPORT. One lemma for each shared operation that says once what it can do: which state it gives, when it stops, and
what it leaves alone. -/

namespace Sys2Proof.Machine

/-! Sequencing. -/

@[simp] theorem andThen_of_next (s : State) (f : State → Result) : andThen (.next s) f = f s := rfl

@[simp] theorem andThen_of_fault (e : Fault) (f : State → Result) : andThen (.fault e) f = .fault e := rfl

@[simp] theorem andThen_of_refused (e : Refusal) (f : State → Result) : andThen (.refused e) f = .refused e := rfl

/-- A sequence ends in a next state exactly when both parts do. -/
theorem andThen_eq_next {r : Result} {f : State → Result} {t : State} :
    andThen r f = .next t ↔ ∃ s, r = .next s ∧ f s = .next t := by
  cases r <;> simp [andThen]

/-- A guarded body runs for a well-formed term and is refused otherwise. -/
theorem guarded_eq_next {i : Instr} {body : State → Result} {s t : State} :
    guarded i body s = .next t ↔ i.wellFormed = true ∧ body s = .next t := by
  unfold guarded; split <;> simp_all

/-- A sequential instruction advances `pc` after its body. -/
theorem sequential_eq_next {i : Instr} {body : State → Result} {s t : State} :
    sequential i body s = .next t ↔
      i.wellFormed = true ∧ ∃ u, body s = .next u ∧ t = u.advance i.length := by
  unfold sequential
  rw [guarded_eq_next, andThen_eq_next]
  constructor
  · rintro ⟨h, u, hu, ht⟩
    exact ⟨h, u, hu, by injection ht with ht; exact ht.symm⟩
  · rintro ⟨h, u, hu, rfl⟩
    exact ⟨h, u, hu, rfl⟩

/-! What the memory operations leave alone. -/

/-- Everything but memory, the sources' bits, the queue, the trace and the draws is as before; memory outside the listed
bytes too. -/
structure Touches (l : List Addr) (s t : State) : Prop where
  rest : t = { s with mem := t.mem, sources := t.sources, queue := t.queue, draws := t.draws, sfrTrace := t.sfrTrace }
  mem : ∀ a, a ∉ l → memGet t.mem a.toNat = memGet s.mem a.toNat
  wf : memWf s.mem → memWf t.mem
  shape : t.sources.map (fun x => (x.num, x.icr)) = s.sources.map (fun x => (x.num, x.icr))
  queue : ∀ c ∈ t.queue, c ∈ s.queue ∨ (BitVec.ofNat 20 c.1 - s.pc).toNat < 12
  trace : ∃ l, t.sfrTrace = l ++ s.sfrTrace

theorem Touches.refl (l : List Addr) (s : State) : Touches l s s :=
  ⟨rfl, fun _ _ => rfl, id, rfl, fun _ h => .inl h, [], rfl⟩

theorem Touches.trans {l m : List Addr} {s t u : State} (h : Touches l s t) (k : Touches m t u) :
    Touches (l ++ m) s u where
  rest := by rw [k.rest, h.rest]
  mem a ha := by
    simp only [List.mem_append, not_or] at ha
    rw [k.mem a ha.2, h.mem a ha.1]
  wf w := k.wf (h.wf w)
  shape := k.shape.trans h.shape
  queue c hc := by
    have hpc : t.pc = s.pc := by rw [h.rest]
    rcases k.queue c hc with h1 | h1
    · exact h.queue c h1
    · rw [hpc] at h1; exact .inr h1
  trace := by
    obtain ⟨l, hl⟩ := h.trace
    obtain ⟨m, hm⟩ := k.trace
    exact ⟨m ++ l, by rw [hm, hl, List.append_assoc]⟩

theorem Touches.mono {l m : List Addr} {s t : State} (h : Touches l s t) (hs : ∀ a ∈ l, a ∈ m) : Touches m s t :=
  { h with mem := fun a ha => h.mem a (fun hl => ha (hs a hl)) }

theorem Touches.product {l : List Addr} {s t : State} (h : Touches l s t) : t.product = s.product := by rw [h.rest]

/-- A byte is as storable after as before. -/
theorem Touches.writable {l : List Addr} {s t : State} (h : Touches l s t) (a : Addr) :
    t.writable a = s.writable a := by
  simp [State.writable, State.isRom, State.isHole, h.product]

theorem Touches.pc {l : List Addr} {s t : State} (h : Touches l s t) : t.pc = s.pc := by rw [h.rest]

theorem Touches.flg {l : List Addr} {s t : State} (h : Touches l s t) : t.flg = s.flg := by rw [h.rest]

theorem Touches.bank {l : List Addr} {s t : State} (h : Touches l s t) : t.bank = s.bank := by
  rw [h.rest]; rfl

theorem Touches.sp {l : List Addr} {s t : State} (h : Touches l s t) : t.sp = s.sp := by
  rw [h.rest]; rfl

/-! Reads. -/

theorem clearIrAt_shape (k : Nat) (l : List Source) :
    (clearIrAt k l).map (fun x => (x.num, x.icr)) = l.map (fun x => (x.num, x.icr)) := by
  induction l generalizing k with
  | nil => cases k <;> rfl
  | cons x l ih => cases k <;> simp [clearIrAt, ih]

theorem clearBest_shape (l : List Source) :
    (clearBest l).map (fun x => (x.num, x.icr)) = l.map (fun x => (x.num, x.icr)) := by
  unfold clearBest; split
  · exact clearIrAt_shape _ _
  · rfl

theorem raiseAt_shape (a : Addr) (b : Bool) (l : List Source) :
    (raiseAt a b l).map (fun x => (x.num, x.icr)) = l.map (fun x => (x.num, x.icr)) := by
  induction l with
  | nil => rfl
  | cons x l ih => unfold raiseAt; split <;> simp [ih]

/-- No interrupt control register at the address: nothing is raised. -/
theorem raiseAt_of_none {a : Addr} {b : Bool} {l : List Source} (h : icrAt l a = none) : raiseAt a b l = l := by
  induction l with
  | nil => rfl
  | cons x l ih =>
    simp only [icrAt, List.find?_cons] at h
    split at h
    · cases h
    · rename_i hx
      unfold raiseAt
      rw [if_neg (by simpa using hx), ih h]

/-- One byte read changes at most request bits and draws. -/
theorem busRead_touches (a : Addr) (s : State) : Touches [] s (busRead a s).2 where
  rest := rfl
  mem _ _ := rfl
  wf := id
  shape := by simp only [busRead]; split <;> simp [clearBest_shape, raiseAt_shape]
  queue _ h := .inl h
  trace := ⟨[], rfl⟩

theorem busReadWord_touches (a : Addr) (s : State) : Touches [] s (busReadWord a s).2 := by
  rw [show (busReadWord a s).2 = (busRead (a + 1) (busRead a s).2).2 from rfl]
  exact Touches.trans (l := []) (m := []) (busRead_touches a s) (busRead_touches (a + 1) _)

/-- An entry of the trace changes nothing else. -/
theorem record_touches (d : Direction) (a : Addr) (n : Nat) (v : BitVec 32) (s : State) :
    Touches [] s (s.record d a n v) :=
  ⟨rfl, fun _ _ => rfl, id, rfl, fun _ h => .inl h, by
    unfold State.record; split
    · exact ⟨[_], rfl⟩
    · exact ⟨[], rfl⟩⟩

/-- An access outside the SFR area leaves no entry. -/
theorem record_of_outside {d : Direction} {a : Addr} {n : Nat} {v : BitVec 32} {s : State}
    (h : s.touchesSfr a n = false) : s.record d a n v = s := by simp [State.record, h]

theorem recordRead_touches {w : Nat} {a : Addr} {n : Nat} {s : State} {r : BitVec w × State}
    (h : Touches [] s r.2) : Touches [] s (recordRead a n r).2 :=
  Touches.trans (l := []) (m := []) h (record_touches _ _ _ _ _)

/-- A read changes at most request bits, draws and the trace. -/
theorem readByte_touches (a : Addr) (s : State) : Touches [] s (readByte a s).2 :=
  recordRead_touches (busRead_touches a s)

theorem readWord_touches (a : Addr) (s : State) : Touches [] s (readWord a s).2 :=
  recordRead_touches (busReadWord_touches a s)

theorem read24_touches (a : Addr) (s : State) : Touches [] s (read24 a s).2 := by
  have h := Touches.trans (l := []) (m := []) (busReadWord_touches a s) (busRead_touches (a + 2) _)
  simp only [read24, recordRead]
  exact Touches.trans (l := []) (m := []) h (record_touches _ _ _ _ _)

theorem read32_touches (a : Addr) (s : State) : Touches [] s (read32 a s).2 := by
  have h := Touches.trans (l := []) (m := []) (busReadWord_touches a s) (busReadWord_touches (a + 2) _)
  simp only [read32, recordRead]
  exact Touches.trans (l := []) (m := []) h (record_touches _ _ _ _ _)

/-- A plain byte reads as it is stored, without a side effect. -/
theorem busRead_plain {a : Addr} {s : State} (h : s.plain a) : busRead a s = (memGet s.mem a.toNat, s) := by
  obtain ⟨h0, hh, hs, hi⟩ := h
  simp [busRead, State.isOpen, h0, hh, hs, hi, raiseAt_of_none hi]

theorem readByte_plain {a : Addr} {s : State} (h : s.plain a) : readByte a s = (memGet s.mem a.toNat, s) := by
  have hs : s.touchesSfr a 1 = false := by simp [State.touchesSfr, h.2.2.1]
  simp [readByte, recordRead, busRead_plain h, record_of_outside hs]

theorem readMem_touches (z : Size) (a : Addr) (s : State) : Touches [] s (readMem z a s).2 := by
  cases z
  · exact readByte_touches a s
  · exact readWord_touches a s

/-- Reading an operand changes at most request bits, draws and the trace. -/
theorem readLoc_touches (z : Size) (l : Loc) (s : State) : Touches [] s (readLoc z l s).2 := by
  cases z <;> cases l <;>
    first
      | exact Touches.refl _ _
      | exact readMem_touches _ _ _

/-! Writes. -/

theorem storeIcr_shape (a : Addr) (v : Byte) (keep : Bool) (n : Nat) (x : Source) :
    ((storeIcr a v keep n x).num, (storeIcr a v keep n x).icr) = (x.num, x.icr) := by
  unfold storeIcr; split <;> rfl

theorem stored_touches (k : StoreKind) (a : Addr) (v : Byte) (s : State) : Touches [a] s (stored k a v s) where
  rest := rfl
  mem b hb := memGet_memSet_other _ _ _ _ (by
    intro h; exact hb (by simp [BitVec.eq_of_toNat_eq h]))
  wf h := memSet_wf _ _ _ a.isLt h
  shape := by simp [stored, Function.comp_def, storeIcr_shape]
  queue c hc := by
    simp only [stored] at hc
    split at hc
    · rename_i hq
      rcases List.mem_cons.mp hc with rfl | hc
      · right; simpa [State.inQueue] using hq
      · exact .inl hc
    · exact .inl hc
  trace := ⟨[], rfl⟩

@[simp] theorem stored_read_same (k : StoreKind) (a : Addr) (v : Byte) (s : State) :
    memGet (stored k a v s).mem a.toNat = v := memGet_memSet_same _ _ _

/-- What an operation that stores to the listed bytes answers: a next state when all of them can be stored to, and
otherwise the fault of a byte that cannot. -/
def Stores (l : List Addr) (s : State) (r : Result) (post : State → Prop) : Prop :=
  ((∀ a ∈ l, s.writable a = true) ∧ ∃ t, r = .next t ∧ Touches l s t ∧ post t) ∨
    (∃ a ∈ l, s.isRom a = true ∧ r = .fault (.romWrite a)) ∨
    (∃ a ∈ l, s.isRom a = false ∧ s.isHole a = true ∧ r = .fault (.unmappedWrite a))

theorem busWrite_stores (k : StoreKind) (a : Addr) (v : Byte) (s : State) :
    Stores [a] s (busWrite k a v s) (fun t => t = stored k a v s) := by
  unfold busWrite Stores
  split
  · exact .inr (.inl ⟨a, by simp, by assumption, rfl⟩)
  · split
    · exact .inr (.inr ⟨a, by simp, by simp_all, by assumption, rfl⟩)
    · exact .inl ⟨by simp_all [State.writable], _, rfl, stored_touches k a v s, rfl⟩

/-- A byte store goes on exactly when the byte can be stored to. -/
theorem writeByte_eq_next {k : StoreKind} {a : Addr} {v : Byte} {s t : State} :
    writeByte k a v s = .next t ↔
      s.writable a = true ∧ t = (stored k a v s).record .write a 1 (v.setWidth 32) := by
  unfold writeByte recordWrite busWrite State.writable
  cases h : s.isRom a <;> cases h' : s.isHole a <;> simp [eq_comm]

theorem Stores.then {l m : List Addr} {s : State} {r : Result} {f : State → Result} {P Q : State → Prop}
    (h : Stores l s r P) (k : ∀ t, Touches l s t → P t → Stores m t (f t) Q) :
    Stores (l ++ m) s (andThen r f) Q := by
  rcases h with ⟨hw, t, rfl, ht, hp⟩ | ⟨a, ha, hr, rfl⟩ | ⟨a, ha, hr, hh, rfl⟩
  · rcases k t ht hp with ⟨kw, u, hu, ku, hq⟩ | ⟨a, ha, hr, he⟩ | ⟨a, ha, hr, hh, he⟩
    · refine .inl ⟨?_, u, by simpa using hu, ht.trans ku, hq⟩
      intro a ha
      rcases List.mem_append.mp ha with ha | ha
      · exact hw a ha
      · rw [← ht.writable]; exact kw a ha
    · refine .inr (.inl ⟨a, by simp [ha], ?_, by simpa using he⟩)
      simpa [State.isRom, ht.product] using hr
    · refine .inr (.inr ⟨a, by simp [ha], ?_, ?_, by simpa using he⟩)
      · simpa [State.isRom, ht.product] using hr
      · simpa [State.isHole, ht.product] using hh
  · exact .inr (.inl ⟨a, by simp [ha], hr, rfl⟩)
  · exact .inr (.inr ⟨a, by simp [ha], hr, hh, rfl⟩)

theorem Stores.weaken {l : List Addr} {s : State} {r : Result} {P Q : State → Prop} (h : Stores l s r P)
    (k : ∀ t, Touches l s t → P t → Q t) : Stores l s r Q := by
  rcases h with ⟨hw, t, hr, ht, hp⟩ | h | h
  · exact .inl ⟨hw, t, hr, ht, k t ht hp⟩
  · exact .inr (.inl h)
  · exact .inr (.inr h)

/-- The entry of the trace that a completed store adds. -/
theorem recordWrite_stores {w : Nat} {l : List Addr} {s : State} {r : Result} {P : State → Prop} (a : Addr) (n : Nat)
    (v : BitVec w) (h : Stores l s r P) :
    Stores l s (recordWrite a n v r) (fun t => ∃ u, P u ∧ t = u.record .write a n (v.setWidth 32)) := by
  have := h.then (m := []) (f := fun t => .next (t.record .write a n (v.setWidth 32)))
    (Q := fun t => ∃ u, P u ∧ t = u.record .write a n (v.setWidth 32))
    (fun t _ hp => .inl ⟨by simp, _, rfl, record_touches _ _ _ _ _, t, hp, rfl⟩)
  simpa [recordWrite] using this

theorem writeByte_stores (k : StoreKind) (a : Addr) (v : Byte) (s : State) :
    Stores [a] s (writeByte k a v s) (fun t => memGet t.mem a.toNat = v) :=
  (recordWrite_stores a 1 v (busWrite_stores k a v s)).weaken (by
    rintro t - ⟨u, rfl, rfl⟩; exact stored_read_same k a v s)

theorem addr_add_ne (a : Addr) {n : Nat} (h : 0 < n) (h2 : n < 2 ^ 20) : a ≠ a + BitVec.ofNat 20 n := by
  intro e
  have := congrArg BitVec.toNat e
  simp only [BitVec.toNat_add, BitVec.toNat_ofNat] at this
  have := a.isLt
  omega

theorem busWriteWord_stores (k : StoreKind) (a : Addr) (v : Word) (s : State) :
    Stores [a, a + 1] s (busWriteWord k a v s) (fun t =>
      memGet t.mem a.toNat = loByte v ∧ memGet t.mem (a + 1).toNat = hiByte v) := by
  refine (busWrite_stores k a _ s).then (m := [a + 1]) ?_
  rintro t - rfl
  refine (busWrite_stores k (a + 1) _ _).weaken ?_
  rintro u - rfl
  refine ⟨?_, stored_read_same _ _ _ _⟩
  have e : a ≠ a + 1 := addr_add_ne a (n := 1) (by decide) (by decide)
  rw [(stored_touches k (a + 1) _ _).mem a (by simpa only [List.mem_singleton] using e)]
  exact stored_read_same _ _ _ _

/-- A word store: the low byte at the address and the high byte at the next one. -/
theorem writeWord_stores (k : StoreKind) (a : Addr) (v : Word) (s : State) :
    Stores [a, a + 1] s (writeWord k a v s) (fun t =>
      memGet t.mem a.toNat = loByte v ∧ memGet t.mem (a + 1).toNat = hiByte v) := by
  refine (recordWrite_stores a 2 v (busWriteWord_stores k a v s)).weaken ?_
  rintro t - ⟨u, h, rfl⟩
  exact h

theorem write24_stores (k : StoreKind) (a : Addr) (v : BitVec 24) (s : State) :
    Stores [a, a + 1, a + 2] s (write24 k a v s) (fun t =>
      memGet t.mem a.toNat = v.extractLsb' 0 8 ∧ memGet t.mem (a + 1).toNat = v.extractLsb' 8 8 ∧
        memGet t.mem (a + 2).toNat = v.extractLsb' 16 8) := by
  have key : Stores [a, a + 1, a + 2] s _ _ :=
    (busWriteWord_stores k a (v.extractLsb' 0 16) s).then (m := [a + 2])
      (Q := fun u => ∃ t, (memGet t.mem a.toNat = loByte (v.extractLsb' 0 16) ∧
        memGet t.mem (a + 1).toNat = hiByte (v.extractLsb' 0 16)) ∧ u = stored k (a + 2) (v.extractLsb' 16 8) t)
      (fun t _ h => (busWrite_stores k (a + 2) _ t).weaken fun u _ e => ⟨t, h, e⟩)
  refine (recordWrite_stores a 3 v key).weaken ?_
  rintro _ - ⟨_, ⟨t, ⟨h0, h1⟩, rfl⟩, rfl⟩
  simp only [State.record_mem]
  have e0 : a ≠ a + 2 := addr_add_ne a (n := 2) (by decide) (by decide)
  have e1 : a + 1 ≠ a + 2 := by
    have := addr_add_ne (a + 1) (n := 1) (by decide) (by decide)
    simp only [BitVec.add_assoc] at this
    exact this
  refine ⟨?_, ?_, stored_read_same _ _ _ _⟩
  · rw [(stored_touches k (a + 2) _ _).mem a (by simpa only [List.mem_singleton] using e0), h0]
    unfold loByte; rw [BitVec.extractLsb'_extractLsb'_of_le (by decide)]
  · rw [(stored_touches k (a + 2) _ _).mem (a + 1) (by simpa only [List.mem_singleton] using e1), h1]
    unfold hiByte; rw [BitVec.extractLsb'_extractLsb'_of_le (by decide)]

end Sys2Proof.Machine
end

