-- ==== Sys2Proof/Laws/Frame.lean ====
section
/-! SUPPORT. What no operation but a store changes, and what a storing operation can answer, for every shared operation
of Ops.lean and Operands.lean. -/

namespace Sys2Proof.Machine

/-- Memory outside the listed bytes, its canonical form, and what only the environment or the end of an instruction
changes are as before. -/
structure Keeps (l : List Addr) (s t : State) : Prop where
  mem : ∀ a, a ∉ l → memGet t.mem a.toNat = memGet s.mem a.toNat
  wf : memWf s.mem → memWf t.mem
  shape : t.sources.map (fun x => (x.num, x.icr)) = s.sources.map (fun x => (x.num, x.icr))
  product : t.product = s.product
  matchRegs : t.matchRegs = s.matchRegs
  requests : (t.nmiReq, t.wdtReq, t.dbcReq, t.stepReq, t.resetReq, t.matchReq) =
    (s.nmiReq, s.wdtReq, s.dbcReq, s.stepReq, s.resetReq, s.matchReq)
  resume : t.resume = s.resume
  trace : ∃ l, t.sfrTrace = l ++ s.sfrTrace

theorem Keeps.refl (s : State) : Keeps [] s s := ⟨fun _ _ => rfl, id, rfl, rfl, rfl, rfl, rfl, [], rfl⟩

theorem Keeps.trans {l m : List Addr} {s t u : State} (h : Keeps l s t) (k : Keeps m t u) : Keeps (l ++ m) s u where
  mem a ha := by
    simp only [List.mem_append, not_or] at ha
    rw [k.mem a ha.2, h.mem a ha.1]
  wf w := k.wf (h.wf w)
  shape := k.shape.trans h.shape
  product := k.product.trans h.product
  matchRegs := k.matchRegs.trans h.matchRegs
  requests := k.requests.trans h.requests
  resume := k.resume.trans h.resume
  trace := by
    obtain ⟨l, hl⟩ := h.trace
    obtain ⟨m, hm⟩ := k.trace
    exact ⟨m ++ l, by rw [hm, hl, List.append_assoc]⟩

theorem Touches.keeps {l : List Addr} {s t : State} (h : Touches l s t) : Keeps l s t where
  mem := h.mem
  wf := h.wf
  shape := h.shape
  product := by rw [h.rest]
  matchRegs := by rw [h.rest]
  requests := by rw [h.rest]
  resume := by rw [h.rest]
  trace := h.trace

theorem Keeps.writable {l : List Addr} {s t : State} (h : Keeps l s t) (a : Addr) : t.writable a = s.writable a := by
  simp [State.writable, State.isRom, State.isHole, h.product]

/-- What an operation that stores to the listed bytes can answer: a next state when all of them can be stored to, and
otherwise the fault of a byte that cannot. -/
def Acts (l : List Addr) (s : State) (r : Result) : Prop :=
  ((∀ a ∈ l, s.writable a = true) ∧ ∃ t, r = .next t ∧ Keeps l s t) ∨
    (∃ a ∈ l, s.isRom a = true ∧ r = .fault (.romWrite a)) ∨
    (∃ a ∈ l, s.isRom a = false ∧ s.isHole a = true ∧ r = .fault (.unmappedWrite a))

theorem Stores.acts {l : List Addr} {s : State} {r : Result} {P : State → Prop} (h : Stores l s r P) : Acts l s r := by
  rcases h with ⟨hw, t, hr, ht, -⟩ | h | h
  · exact .inl ⟨hw, t, hr, ht.keeps⟩
  · exact .inr (.inl h)
  · exact .inr (.inr h)

/-- A state reached without a store. -/
theorem Keeps.acts {s t : State} (h : Keeps [] s t) : Acts [] s (.next t) := .inl ⟨by simp, t, rfl, h⟩

/-- An operation that runs after something that stores nothing. -/
theorem Acts.after {l : List Addr} {s t : State} {r : Result} (h : Keeps [] s t) (k : Acts l t r) : Acts l s r := by
  rcases k with ⟨hw, u, hr, hu⟩ | ⟨a, ha, hr, he⟩ | ⟨a, ha, hr, hh, he⟩
  · exact .inl ⟨fun a ha => by rw [← h.writable]; exact hw a ha, u, hr, h.trans hu⟩
  · exact .inr (.inl ⟨a, ha, by simpa [State.isRom, h.product] using hr, he⟩)
  · exact .inr (.inr ⟨a, ha, by simpa [State.isRom, h.product] using hr,
      by simpa [State.isHole, h.product] using hh, he⟩)

theorem Acts.then {l m : List Addr} {s : State} {r : Result} {f : State → Result} (h : Acts l s r)
    (k : ∀ t, r = .next t → Acts m t (f t)) : Acts (l ++ m) s (andThen r f) := by
  rcases h with ⟨hw, t, rfl, ht⟩ | ⟨a, ha, hr, rfl⟩ | ⟨a, ha, hr, hh, rfl⟩
  · rcases k t rfl with ⟨kw, u, hu, ku⟩ | ⟨a, ha, hr, he⟩ | ⟨a, ha, hr, hh, he⟩
    · refine .inl ⟨?_, u, hu, ht.trans ku⟩
      intro a ha
      rcases List.mem_append.mp ha with ha | ha
      · exact hw a ha
      · rw [← ht.writable]; exact kw a ha
    · exact .inr (.inl ⟨a, by simp [ha], by simpa [State.isRom, ht.product] using hr, he⟩)
    · exact .inr (.inr ⟨a, by simp [ha], by simpa [State.isRom, ht.product] using hr,
        by simpa [State.isHole, ht.product] using hh, he⟩)
  · exact .inr (.inl ⟨a, by simp [ha], hr, rfl⟩)
  · exact .inr (.inr ⟨a, by simp [ha], hr, hh, rfl⟩)

/-- A storing operation followed by something that always goes on. -/
theorem Acts.next {l : List Addr} {s : State} {r : Result} {f : State → State} (h : Acts l s r)
    (k : ∀ t, Keeps [] t (f t)) : Acts l s (andThen r fun t => .next (f t)) := by
  have := h.then (m := []) (f := fun t => .next (f t)) (fun t _ => (k t).acts)
  simpa using this

/-! Register updates store nothing. -/

theorem setBank_keeps (s : State) (k : Bank) : Keeps [] s (s.setBank k) :=
  ⟨fun _ _ => rfl, id, rfl, rfl, rfl, rfl, rfl, [], rfl⟩
theorem setFlg_keeps (s : State) (f : Flg) : Keeps [] s (s.setFlg f) :=
  ⟨fun _ _ => rfl, id, rfl, rfl, rfl, rfl, rfl, [], rfl⟩
theorem setSp_keeps (s : State) (v : Word) : Keeps [] s (s.setSp v) :=
  ⟨fun _ _ => rfl, id, rfl, rfl, rfl, rfl, rfl, [], rfl⟩
theorem setFb_keeps (s : State) (v : Word) : Keeps [] s (s.setFb v) := setBank_keeps _ _
theorem setAreg_keeps (s : State) (r : AReg) (v : Word) : Keeps [] s (s.setAreg r v) := by
  cases r <;> exact setBank_keeps _ _
theorem setDreg16_keeps (s : State) (r : DReg) (v : Word) : Keeps [] s (s.setDreg16 r v) := by
  cases r <;> exact setBank_keeps _ _
theorem setDreg8_keeps (s : State) (r : DReg) (v : Byte) : Keeps [] s (s.setDreg8 r v) := by
  cases r <;> exact setBank_keeps _ _
theorem setReg16_keeps (s : State) (r : Reg16) (v : Word) : Keeps [] s (s.setReg16 r v) := by
  cases r <;> exact setBank_keeps _ _
theorem setPair_keeps (s : State) (r : Pair) (v : BitVec 32) : Keeps [] s (s.setPair r v) := by
  cases r <;> exact setBank_keeps _ _
theorem setCreg_keeps (s : State) (c : CReg) (v : Word) : Keeps [] s (s.setCreg c v) := by
  cases c <;> exact ⟨fun _ _ => rfl, id, rfl, rfl, rfl, rfl, rfl, [], rfl⟩
theorem advance_keeps (s : State) (n : Nat) : Keeps [] s (s.advance n) :=
  ⟨fun _ _ => rfl, id, rfl, rfl, rfl, rfl, rfl, [], rfl⟩
theorem jump_keeps (s : State) (a : Addr) : Keeps [] s (s.jump a) :=
  ⟨fun _ _ => rfl, id, rfl, rfl, rfl, rfl, rfl, [], rfl⟩
theorem stay_keeps (s : State) (n : Nat) : Keeps [] s (s.stay n) :=
  ⟨fun _ _ => rfl, id, rfl, rfl, rfl, rfl, rfl, [], rfl⟩
theorem openIpl_keeps (s : State) (n : Nat) : Keeps [] s (s.openIpl n) :=
  ⟨fun _ _ => rfl, id, rfl, rfl, rfl, rfl, rfl, [], rfl⟩

/-- A guarded body, for a well-formed term. -/
theorem guarded_acts {i : Instr} {l : List Addr} {s : State} {body : State → Result} (h : i.wellFormed = true)
    (k : Acts l s (body s)) : Acts l s (guarded i body s) := by unfold guarded; simpa [h] using k

/-- A sequential body, for a well-formed term. -/
theorem sequential_acts {i : Instr} {l : List Addr} {s : State} {body : State → Result} (h : i.wellFormed = true)
    (k : Acts l s (body s)) : Acts l s (sequential i body s) :=
  guarded_acts h (k.next fun t => advance_keeps t _)

/-! Stores, the stack and operands. -/

theorem writeByte_acts (k : StoreKind) (a : Addr) (v : Byte) (s : State) : Acts [a] s (writeByte k a v s) :=
  (writeByte_stores k a v s).acts

theorem writeWord_acts (k : StoreKind) (a : Addr) (v : Word) (s : State) : Acts [a, a + 1] s (writeWord k a v s) :=
  (writeWord_stores k a v s).acts

theorem write24_acts (k : StoreKind) (a : Addr) (v : BitVec 24) (s : State) :
    Acts [a, a + 1, a + 2] s (write24 k a v s) := (write24_stores k a v s).acts

theorem write32_acts (k : StoreKind) (a : Addr) (v : BitVec 32) (s : State) :
    Acts [a, a + 1, a + 2, a + 2 + 1] s (write32 k a v s) := by
  have h := ((busWriteWord_stores k a (v.extractLsb' 0 16) s).acts).then (m := [a + 2, a + 2 + 1])
    (f := busWriteWord k (a + 2) (v.extractLsb' 16 16))
    (fun t _ => (busWriteWord_stores k (a + 2) _ t).acts)
  exact h.next fun t => (record_touches .write a 4 (v.setWidth 32) t).keeps

theorem writeMem_acts (k : StoreKind) (z : Size) (a : Addr) (v : BitVec (Size.bits z)) (s : State) :
    Acts (sizeAt z a) s (writeMem k z a v s) := by
  cases z
  · exact writeByte_acts k a v s
  · exact writeWord_acts k a v s

theorem writeLoc_acts (k : StoreKind) (z : Size) (l : Loc) (v : BitVec (Size.bits z)) (s : State) :
    Acts (locBytes z l) s (writeLoc k z l v s) := by
  cases z <;> cases l
  · exact (setDreg8_keeps s _ v).acts
  · exact (setAreg_keeps s _ _).acts
  · exact writeMem_acts k .b _ v s
  · exact (setDreg16_keeps s _ v).acts
  · exact (setAreg_keeps s _ _).acts
  · exact writeMem_acts k .w _ v s

theorem push8_acts (v : Byte) (s : State) : Acts (sizeAt .b (pushAt .b s.sp)) s (push8 v s) :=
  .after (setSp_keeps s (s.sp - 1)) (writeByte_acts .other (near (s.sp - 1)) v _)

theorem push16_acts (v : Word) (s : State) : Acts (sizeAt .w (pushAt .w s.sp)) s (push16 v s) :=
  .after (setSp_keeps s (s.sp - 2)) (writeWord_acts .other (near (s.sp - 2)) v _)

/-- A push lowers the selected stack pointer and stores the value there. -/
theorem push8_eq_next {v : Byte} {s t : State} : push8 v s = .next t ↔
    s.writable (near (s.sp - 1)) = true ∧
      t = (stored .other (near (s.sp - 1)) v (s.setSp (s.sp - 1))).record .write (near (s.sp - 1)) 1 (v.setWidth 32) :=
  writeByte_eq_next

theorem push16_sp {v : Word} {s t : State} (h : push16 v s = .next t) : t.sp = s.sp - 2 := by
  rcases writeWord_stores .other (near (s.sp - 2)) v (s.setSp (s.sp - 2)) with
    ⟨-, u, hu, ht, -⟩ | ⟨_, _, _, he⟩ | ⟨_, _, _, _, he⟩
  · rw [show push16 v s = _ from hu] at h
    cases h; rw [ht.sp, State.setSp_sp]
  · rw [show push16 v s = _ from he] at h; cases h
  · rw [show push16 v s = _ from he] at h; cases h

theorem pushRet_acts (ret : Addr) (s : State) : Acts (callBytes s.sp) s (pushRet ret s) := by
  refine (push8_acts _ s).then (m := sizeAt .w (pushAt .w (s.sp - 1))) fun t ht => ?_
  rw [push8_eq_next] at ht
  have : t.sp = s.sp - 1 := by rw [ht.2]; simp
  rw [← this]; exact push16_acts _ t

theorem pop8_keeps (s : State) : Keeps [] s (pop8 s).2 :=
  (readByte_touches (near s.sp) s).keeps.trans (m := []) (setSp_keeps _ _)

theorem pop16_keeps (s : State) : Keeps [] s (pop16 s).2 :=
  (readWord_touches (near s.sp) s).keeps.trans (m := []) (setSp_keeps _ _)

theorem readLoc_keeps (z : Size) (l : Loc) (s : State) : Keeps [] s (readLoc z l s).2 := (readLoc_touches z l s).keeps

theorem withSrc_acts {z : Size} {src dst : Loc} {f : BitVec (Size.bits z) → Loc → State → Result} {l : List Addr}
    (s : State) (h : ∀ v t, Acts l t (f v dst t)) : Acts l s (withSrc z src dst f s) :=
  .after (readLoc_keeps z src s) (h _ _)

theorem aluTo_acts (op : AluOp) (z : Size) (v : BitVec (Size.bits z)) (l : Loc) (s : State) :
    Acts (locBytes z l) s (aluTo op z v l s) := by
  cases z <;> cases l
  case b.addr a => exact ((setFlg_keeps s _).trans (m := []) (setAreg_keeps _ a _)).acts
  all_goals exact .after ((readLoc_keeps _ _ s).trans (m := []) (setFlg_keeps _ _)) (writeLoc_acts .other _ _ _ _)

theorem aluTest_acts (op : AluOp) (z : Size) (v : BitVec (Size.bits z)) (l : Loc) (s : State) :
    Acts [] s (aluTest op z v l s) := by
  cases z <;> cases l
  case b.addr a => exact (setFlg_keeps s _).acts
  all_goals exact ((readLoc_keeps _ _ s).trans (m := []) (setFlg_keeps _ _)).acts

theorem unaryTo_acts (op : UnaryOp) (z : Size) (l : Loc) (s : State) :
    Acts (locBytes z l) s (unaryTo op z l s) :=
  .after ((readLoc_keeps _ _ s).trans (m := []) (setFlg_keeps _ _)) (writeLoc_acts .other _ _ _ _)

theorem moveTo_acts (k : StoreKind) (z : Size) (v : BitVec (Size.bits z)) (l : Loc) (s : State) :
    Acts (locBytes z l) s (moveTo k z v l s) := by
  cases z <;> cases l
  case b.addr a => exact ((setFlg_keeps s _).trans (m := []) (setAreg_keeps _ a _)).acts
  all_goals exact .after (setFlg_keeps _ _) (writeLoc_acts k _ _ _ _)

theorem bitTest_acts (l : BitLoc) (f : Bool → Flg → Flg) (s : State) : Acts [] s (bitTest l f s) := by
  cases l with
  | reg r n => exact (setFlg_keeps s _).acts
  | mem a n => exact ((readByte_touches a s).keeps.trans (m := []) (setFlg_keeps _ _)).acts

theorem bitModify_acts (l : BitLoc) (new : Bool → Bool) (f : Bool → Flg → Flg) (s : State) :
    Acts (bitBytes l) s (bitModify l new f s) := by
  cases l with
  | reg r n => exact ((setFlg_keeps s _).trans (m := []) (setReg16_keeps _ r _)).acts
  | mem a n =>
    exact .after ((readByte_touches a s).keeps.trans (m := []) (setFlg_keeps _ _)) (writeByte_acts .other a _ _)

/-! Taking an interrupt and returning from one. -/

/-- The interrupt sequence stores its frame of two words and goes on at the vector. -/
theorem intSeq_acts (vec ret : Addr) (clearU : Bool) (level : Option (BitVec 3)) (s : State) :
    Acts (pushedBytes 2 (s.setFlg (seqFlags clearU s.flg)).sp) s (intSeq vec ret clearU level s) := by
  refine .after (setFlg_keeps s (seqFlags clearU s.flg)) ?_
  refine (push16_acts _ _).then (m := _) fun t ht => ?_
  rw [← push16_sp ht]
  rw [show pushedBytes 1 t.sp = sizeAt .w (pushAt .w t.sp) ++ [] from rfl]
  refine (push16_acts _ t).then (m := []) fun u _ => Keeps.acts ?_
  have h1 : Keeps [] u ({ u.setFlg (seqLevel level u.flg) with waiting := false } : State) :=
    ⟨fun _ _ => rfl, id, rfl, rfl, rfl, rfl, rfl, [], rfl⟩
  exact h1.trans (m := []) ((read32_touches vec _).keeps.trans (m := []) (jump_keeps _ _))

theorem returnFromInterrupt_acts (s : State) : Acts [] s (returnFromInterrupt s) := by
  refine Keeps.acts ?_
  exact (openIpl_keeps s _).trans (m := []) ((pop16_keeps _).trans (m := []) ((pop16_keeps _).trans (m := [])
    ((jump_keeps _ _).trans (m := []) (setFlg_keeps _ _))))

end Sys2Proof.Machine
end

