-- ==== Sys2Proof/Laws/Families.lean ====
section
/-! SUPPORT. What the operations shared within a family can answer. -/

namespace Sys2Proof.Machine

theorem pushSized_acts (z : Size) (v : BitVec (Size.bits z)) (s : State) :
    Acts (sizeAt z (pushAt z s.sp)) s (pushSized z v s) := by
  cases z
  · exact push8_acts v s
  · exact push16_acts v s

theorem popSized_keeps (z : Size) (s : State) : Keeps [] s (popSized z s).2 := by
  cases z
  · exact pop8_keeps s
  · exact pop16_keeps s

theorem steTo_acts (z : Size) (src : Operand) (far : Addr) (s : State) :
    Acts (sizeAt z far) s (steTo z src far s) :=
  .after ((readLoc_keeps z (s.loc src) s).trans (m := []) (setFlg_keeps _ _)) (writeMem_acts .other z far _ _)

theorem ldeFrom_acts (z : Size) (far : Addr) (dst : Operand) (s : State) :
    Acts (locBytes z (s.loc dst)) s (ldeFrom z far dst s) :=
  .after (readMem_touches z far s).keeps (moveTo_acts .other z _ _ _)

theorem setCtx_keeps (s : State) (r : CtxReg) (v : Word) : Keeps [] s (s.setCtx r v) := by
  cases r
  · exact setReg16_keeps s _ v
  · exact ⟨fun _ _ => rfl, id, rfl, rfl, rfl, rfl, rfl, [], rfl⟩
  · exact setFb_keeps s v

theorem popRegs_keeps (l : List CtxReg) (s : State) : Keeps [] s (popRegs l s) := by
  induction l generalizing s with
  | nil => exact Keeps.refl s
  | cons r l ih =>
    exact (pop16_keeps s).trans (m := []) ((setCtx_keeps _ r _).trans (m := []) (ih _))

theorem pushRegs_acts (l : List CtxReg) (s : State) : Acts (pushedBytes l.length s.sp) s (pushRegs l s) := by
  induction l generalizing s with
  | nil => exact (Keeps.refl s).acts
  | cons r l ih =>
    refine (push16_acts _ s).then fun t ht => ?_
    rw [← push16_sp ht]; exact ih t

theorem loadRegs_keeps (l : List CtxReg) (p : Word) (s : State) : Keeps [] s (loadRegs l p s) := by
  induction l generalizing p s with
  | nil => exact Keeps.refl s
  | cons r l ih =>
    exact (readWord_touches (near p) s).keeps.trans (m := []) ((setCtx_keeps _ r _).trans (m := []) (ih _ _))

theorem storeRegs_acts (l : List CtxReg) (p : Word) (s : State) :
    Acts (pushedBytes l.length p) s (storeRegs l p s) := by
  induction l generalizing p s with
  | nil => exact (Keeps.refl s).acts
  | cons r l ih => exact (writeWord_acts .other (near (p - 2)) _ s).then fun t _ => ih _ t

theorem taskInfo_keeps (num : BitVec 16) (table : BitVec 20) (s : State) : Keeps [] s (taskInfo num table s).2.2 :=
  (readByte_touches _ s).keeps.trans (m := []) ((readByte_touches _ _).keeps.trans (m := [])
    (readByte_touches _ _).keeps)

theorem xchgWith_acts (z : Size) (r : DReg) (l : Loc) (s : State) : Acts (locBytes z l) s (xchgWith z r l s) := by
  cases z <;> cases l
  case b.addr a => exact ((setAreg_keeps s a _).trans (m := []) (setDreg8_keeps _ r _)).acts
  case w.data | w.addr | w.mem =>
    exact .after (readLoc_keeps _ _ s) ((writeLoc_acts .other _ _ _ _).next fun t => setDreg16_keeps t r _)
  all_goals exact .after (readLoc_keeps _ _ s) ((writeLoc_acts .other _ _ _ _).next fun t => setDreg8_keeps t r _)

theorem draws_keeps (s : State) (n : Nat) : Keeps [] s { s with draws := n } :=
  ⟨fun _ _ => rfl, id, rfl, rfl, rfl, rfl, rfl, [], rfl⟩

/-- A shift by R1H stores nothing when the count is 0 (R301). -/
theorem shiftByR1H_acts (k : ShiftKind) (z : Size) (l : Loc) (s : State) :
    Acts (if s.count = 0#8 then [] else locBytes z l) s (shiftByR1H k z l s) := by
  unfold shiftByR1H
  split
  · exact (Keeps.refl s).acts
  · split
    · refine .after ?_ (writeLoc_acts .other z l _ _)
      exact (readLoc_keeps z l s).trans (m := []) ⟨fun _ _ => rfl, id, rfl, rfl, rfl, rfl, rfl, [], rfl⟩
    · exact unaryTo_acts _ z l s

theorem mulTo_acts (signed : Bool) (z : Size) (v : BitVec (Size.bits z)) (l : Loc) (s : State) :
    Acts (productBytes z l) s (mulTo signed z v l s) := by
  cases z <;> cases l
  case b.data r => cases r <;> exact ((readLoc_keeps .b _ s).trans (m := []) (setDreg16_keeps _ _ _)).acts
  case w.data r => cases r <;> exact ((readLoc_keeps .w _ s).trans (m := []) (setPair_keeps _ _ _)).acts
  case b.addr a => exact ((readLoc_keeps .b (.addr a) s).trans (m := []) (setAreg_keeps _ _ _)).acts
  case w.addr a => exact ((readLoc_keeps .w (.addr a) s).trans (m := []) (setPair_keeps _ _ _)).acts
  case b.mem a => exact .after (readLoc_keeps .b (.mem a) s) (writeWord_acts .other a _ _)
  case w.mem a => exact .after (readLoc_keeps .w (.mem a) s) (write32_acts .other a _ _)

theorem extsTo_acts (l : Loc) (s : State) : Acts (locBytes .w l) s (extsTo l s) := by
  cases l with
  | data r =>
    cases r <;>
      exact ((readLoc_keeps .b _ s).trans (m := []) ((setFlg_keeps _ _).trans (m := []) (setDreg16_keeps _ _ _))).acts
  | addr a =>
    exact ((readLoc_keeps .b _ s).trans (m := []) ((setFlg_keeps _ _).trans (m := []) (setAreg_keeps _ _ _))).acts
  | mem a =>
    exact .after ((readLoc_keeps .b _ s).trans (m := []) (setFlg_keeps _ _)) (writeWord_acts .other a _ _)

theorem addJump_acts (z : Size) (v : BitVec (Size.bits z)) (l : Loc) (d : BitVec 8) (n : Nat) (s : State) :
    Acts (locBytes z l) s (addJump z v l d n s) := by
  refine .after (readLoc_keeps z l s) ((writeLoc_acts .other z l _ _).next fun t => ?_)
  split
  · exact advance_keeps t n
  · exact jump_keeps t _

theorem endIteration_keeps (last : Bool) (n : Nat) (s : State) : Keeps [] s (endIteration last n s) := by
  unfold endIteration; split
  · exact advance_keeps s n
  · exact stay_keeps s n

theorem setRmpaAcc_keeps (z : Size) (v : Int) (s : State) : Keeps [] s (setRmpaAcc z v s) := by
  cases z
  · exact setDreg16_keeps s .d0 (BitVec.ofInt 16 v)
  · exact setPair_keeps s .r2r0 (BitVec.ofInt 32 v)

theorem divBy_keeps (k : DivKind) (z : Size) (v : BitVec (Size.bits z)) (s : State) : Keeps [] s (divBy k z v s) := by
  cases z <;> simp only [divBy] <;> split
  · exact (setFlg_keeps s _).trans (m := []) (setDreg16_keeps _ _ _)
  · exact (setFlg_keeps s _).trans (m := []) ((setDreg16_keeps _ _ _).trans (m := []) (draws_keeps _ _))
  · exact (setFlg_keeps s _).trans (m := []) (setPair_keeps _ _ _)
  · exact (setFlg_keeps s _).trans (m := []) ((setPair_keeps _ _ _).trans (m := []) (draws_keeps _ _))

theorem divByLoc_keeps (k : DivKind) (z : Size) (l : Loc) (s : State) : Keeps [] s (divByLoc k z l s) :=
  (readLoc_keeps z l s).trans (m := []) (divBy_keeps k z _ _)

theorem callTo_acts (a : Addr) (n : Nat) (s : State) : Acts (callBytes s.sp) s (callTo a n s) :=
  (pushRet_acts _ s).next fun t => jump_keeps t a

end Sys2Proof.Machine
end

