-- ==== Sys2Proof/Laws/PerInstr.lean ====
section
/-! SUPPORT. The per-instruction family: the bytes of an encoding are as many as the instruction's length, and the
length is at least 1 and, but for the macro `LDINTB` (R192), at most 7 (R147). -/

namespace Sys2Proof.Laws.Encoding

/-- The number of bytes of an encoding is the instruction's length, which lies in the range of R147. -/
def Statement (i : Instr) : Prop :=
  (encode i).length = i.length ∧ 1 ≤ i.length ∧ (i.length ≤ 7 ∨ ∃ v, i = .ldintb v)

/-- The operand bytes are as many as the operand's length. -/
theorem ea_bytes (e : Ea) : e.bytes.length = e.len ∧ e.len ≤ 2 := by cases e <;> exact ⟨rfl, Nat.le_of_ble_eq_true rfl⟩

/-- The same for a general operand. -/
theorem operand_bytes (o : Operand) : o.bytes.length = o.len ∧ o.len ≤ 2 := by
  cases o with
  | data r => exact ⟨rfl, Nat.zero_le _⟩
  | addr a => exact ⟨rfl, Nat.zero_le _⟩
  | mem e => exact ea_bytes e

/-- The same for a short memory operand. -/
theorem shortMem_bytes (m : ShortMem) : m.bytes.length = m.len ∧ m.len ≤ 2 := by cases m <;> exact ⟨rfl, Nat.le_of_ble_eq_true rfl⟩

/-- The same for a short source. -/
theorem shortSrc_bytes (x : ShortSrc) : x.bytes.length = x.len ∧ x.len ≤ 2 := by
  cases x with
  | other => exact ⟨rfl, Nat.zero_le _⟩
  | mem m => exact shortMem_bytes m

/-- The same for a short destination. -/
theorem shortDest_bytes (x : ShortDest) : x.bytes.length = x.len ∧ x.len ≤ 2 := by
  cases x with
  | half h => exact ⟨rfl, Nat.zero_le _⟩
  | mem m => exact shortMem_bytes m

/-- The same for an immediate. -/
theorem imm_bytes (v : Imm) : v.bytes.length = v.len ∧ v.len ≤ 2 := by cases v <;> exact ⟨rfl, Nat.le_of_ble_eq_true rfl⟩

/-- The same for a bit operand. -/
theorem bitOp_bytes (b : BitOp) : b.bytes.length = b.len ∧ b.len ≤ 2 := by cases b <;> exact ⟨rfl, Nat.le_of_ble_eq_true rfl⟩

/-- The same for the memory mode of an indirect jump. -/
theorem jmpEa_bytes (e : JmpEa) : e.bytes.length = e.len ∧ e.len ≤ 3 := by cases e <;> exact ⟨rfl, Nat.le_of_ble_eq_true rfl⟩

/-- The same for a source of `JMPI.W`. -/
theorem jmpW_bytes (x : JmpW) : x.bytes.length = x.len ∧ x.len ≤ 3 := by
  cases x with
  | reg r => exact ⟨rfl, Nat.zero_le _⟩
  | mem e => exact jmpEa_bytes e

/-- The same for a source of `JMPI.A`. -/
theorem jmpA_bytes (x : JmpA) : x.bytes.length = x.len ∧ x.len ≤ 3 := by
  cases x with
  | pair p => exact ⟨rfl, Nat.zero_le _⟩
  | mem e => exact jmpEa_bytes e

/-- The same for a destination of `STC PC`. -/
theorem pcDest_bytes (x : PcDest) : x.bytes.length = x.len ∧ x.len ≤ 2 := by
  cases x with
  | pair p => exact ⟨rfl, Nat.zero_le _⟩
  | mem e => exact ea_bytes e

/-- One opcode byte and an operand. -/
theorem of_one {i : Instr} {a : Byte} {x : List Byte} {m p : Nat} (he : encode i = a :: x) (hi : i.length = 1 + m)
    (hx : x.length = m ∧ m ≤ p) (hp : p ≤ 6) : Statement i := by
  refine ⟨?_, by omega, .inl (by omega)⟩
  rw [he, List.length_cons, hi]; omega

/-- Two bytes and an operand. -/
theorem of_two {i : Instr} {a b : Byte} {x : List Byte} {m p : Nat} (he : encode i = a :: b :: x)
    (hi : i.length = 2 + m) (hx : x.length = m ∧ m ≤ p) (hp : p ≤ 5) : Statement i := by
  refine ⟨?_, by omega, .inl (by omega)⟩
  rw [he, List.length_cons, List.length_cons, hi]; omega

/-- Two bytes and two operands. -/
theorem of_pair {i : Instr} {a b : Byte} {x y : List Byte} {m n p q : Nat}
    (he : encode i = (a :: b :: x) ++ y) (hi : i.length = 2 + m + n) (hx : x.length = m ∧ m ≤ p)
    (hy : y.length = n ∧ n ≤ q) (hp : p + q ≤ 5) : Statement i := by
  refine ⟨?_, by omega, .inl (by omega)⟩
  rw [he, List.length_append, List.length_cons, List.length_cons, hi]; omega

theorem brk : Statement .brk := by
  exact ⟨rfl, Nat.le_of_ble_eq_true rfl, .inl (Nat.le_of_ble_eq_true rfl)⟩

theorem movBSHalfDest (h : Half) (m : ShortMem) : Statement (.movBSHalfDest h m) := by
  exact of_one rfl rfl (shortMem_bytes m) (Nat.le_of_ble_eq_true rfl)

theorem nop : Statement .nop := by
  exact ⟨rfl, Nat.le_of_ble_eq_true rfl, .inl (Nat.le_of_ble_eq_true rfl)⟩

theorem movBSSrcHalf (h : Half) (src : ShortSrc) : Statement (.movBSSrcHalf h src) := by
  exact of_one rfl rfl (shortSrc_bytes src) (Nat.le_of_ble_eq_true rfl)

theorem andBSSrc (h : Half) (src : ShortSrc) : Statement (.andBSSrc h src) := by
  exact of_one rfl rfl (shortSrc_bytes src) (Nat.le_of_ble_eq_true rfl)

theorem orBSSrc (h : Half) (src : ShortSrc) : Statement (.orBSSrc h src) := by
  exact of_one rfl rfl (shortSrc_bytes src) (Nat.le_of_ble_eq_true rfl)

theorem addBSSrc (h : Half) (src : ShortSrc) : Statement (.addBSSrc h src) := by
  exact of_one rfl rfl (shortSrc_bytes src) (Nat.le_of_ble_eq_true rfl)

theorem subBSSrc (h : Half) (src : ShortSrc) : Statement (.subBSSrc h src) := by
  exact of_one rfl rfl (shortSrc_bytes src) (Nat.le_of_ble_eq_true rfl)

theorem movBSSrcAn (a : AReg) (src : ShortSrc) : Statement (.movBSSrcAn a src) := by
  exact of_one rfl rfl (shortSrc_bytes src) (Nat.le_of_ble_eq_true rfl)

theorem cmpBSSrc (h : Half) (src : ShortSrc) : Statement (.cmpBSSrc h src) := by
  exact of_one rfl rfl (shortSrc_bytes src) (Nat.le_of_ble_eq_true rfl)

theorem bclrS (n : BitVec 3) (d : BitVec 8) : Statement (.bclrS n d) := by
  exact ⟨rfl, Nat.le_of_ble_eq_true rfl, .inl (Nat.le_of_ble_eq_true rfl)⟩

theorem bsetS (n : BitVec 3) (d : BitVec 8) : Statement (.bsetS n d) := by
  exact ⟨rfl, Nat.le_of_ble_eq_true rfl, .inl (Nat.le_of_ble_eq_true rfl)⟩

theorem bnotS (n : BitVec 3) (d : BitVec 8) : Statement (.bnotS n d) := by
  exact ⟨rfl, Nat.le_of_ble_eq_true rfl, .inl (Nat.le_of_ble_eq_true rfl)⟩

theorem btstS (n : BitVec 3) (d : BitVec 8) : Statement (.btstS n d) := by
  exact ⟨rfl, Nat.le_of_ble_eq_true rfl, .inl (Nat.le_of_ble_eq_true rfl)⟩

theorem jmpS (d : BitVec 3) : Statement (.jmpS d) := by
  exact ⟨rfl, Nat.le_of_ble_eq_true rfl, .inl (Nat.le_of_ble_eq_true rfl)⟩

theorem jcnd8 (c : Cond) (d : BitVec 8) : Statement (.jcnd8 c d) := by
  exact ⟨rfl, Nat.le_of_ble_eq_true rfl, .inl (Nat.le_of_ble_eq_true rfl)⟩

theorem muluSrc (sz : Size) (src : Operand) (dst : Operand) : Statement (.muluSrc sz src dst) := by
  exact of_pair rfl rfl (operand_bytes src) (operand_bytes dst) (Nat.le_of_ble_eq_true rfl)

theorem movGSrc (sz : Size) (src : Operand) (dst : Operand) : Statement (.movGSrc sz src dst) := by
  exact of_pair rfl rfl (operand_bytes src) (operand_bytes dst) (Nat.le_of_ble_eq_true rfl)

theorem steAbs20 (sz : Size) (src : Operand) (a : BitVec 20) : Statement (.steAbs20 sz src a) := by
  exact of_pair rfl rfl (operand_bytes src) ⟨rfl, Nat.le_refl _⟩ (Nat.le_of_ble_eq_true rfl)

theorem steDsp20 (sz : Size) (src : Operand) (d : BitVec 20) : Statement (.steDsp20 sz src d) := by
  exact of_pair rfl rfl (operand_bytes src) ⟨rfl, Nat.le_refl _⟩ (Nat.le_of_ble_eq_true rfl)

theorem steA1A0 (sz : Size) (src : Operand) : Statement (.steA1A0 sz src) := by
  exact of_two rfl rfl (operand_bytes src) (Nat.le_of_ble_eq_true rfl)

theorem movGToSp (sz : Size) (src : Operand) (d : BitVec 8) : Statement (.movGToSp sz src d) := by
  exact of_pair rfl rfl (operand_bytes src) ⟨rfl, Nat.le_refl _⟩ (Nat.le_of_ble_eq_true rfl)

theorem pushG (sz : Size) (src : Operand) : Statement (.pushG sz src) := by
  exact of_two rfl rfl (operand_bytes src) (Nat.le_of_ble_eq_true rfl)

theorem neg (sz : Size) (dst : Operand) : Statement (.neg sz dst) := by
  exact of_two rfl rfl (operand_bytes dst) (Nat.le_of_ble_eq_true rfl)

theorem rotR1H (sz : Size) (dst : Operand) : Statement (.rotR1H sz dst) := by
  exact of_two rfl rfl (operand_bytes dst) (Nat.le_of_ble_eq_true rfl)

theorem notG (sz : Size) (dst : Operand) : Statement (.notG sz dst) := by
  exact of_two rfl rfl (operand_bytes dst) (Nat.le_of_ble_eq_true rfl)

theorem ldeAbs20 (sz : Size) (a : BitVec 20) (dst : Operand) : Statement (.ldeAbs20 sz a dst) := by
  exact of_pair rfl rfl (operand_bytes dst) ⟨rfl, Nat.le_refl _⟩ (Nat.le_of_ble_eq_true rfl)

theorem ldeDsp20 (sz : Size) (d : BitVec 20) (dst : Operand) : Statement (.ldeDsp20 sz d dst) := by
  exact of_pair rfl rfl (operand_bytes dst) ⟨rfl, Nat.le_refl _⟩ (Nat.le_of_ble_eq_true rfl)

theorem ldeA1A0 (sz : Size) (dst : Operand) : Statement (.ldeA1A0 sz dst) := by
  exact of_two rfl rfl (operand_bytes dst) (Nat.le_of_ble_eq_true rfl)

theorem movGFromSp (sz : Size) (d : BitVec 8) (dst : Operand) : Statement (.movGFromSp sz d dst) := by
  exact of_pair rfl rfl (operand_bytes dst) ⟨rfl, Nat.le_refl _⟩ (Nat.le_of_ble_eq_true rfl)

theorem movGImm (v : Imm) (dst : Operand) : Statement (.movGImm v dst) := by
  exact of_pair rfl rfl (operand_bytes dst) (imm_bytes v) (Nat.le_of_ble_eq_true rfl)

theorem popG (sz : Size) (dst : Operand) : Statement (.popG sz dst) := by
  exact of_two rfl rfl (operand_bytes dst) (Nat.le_of_ble_eq_true rfl)

theorem shlR1H (sz : Size) (dst : Operand) : Statement (.shlR1H sz dst) := by
  exact of_two rfl rfl (operand_bytes dst) (Nat.le_of_ble_eq_true rfl)

theorem shaR1H (sz : Size) (dst : Operand) : Statement (.shaR1H sz dst) := by
  exact of_two rfl rfl (operand_bytes dst) (Nat.le_of_ble_eq_true rfl)

theorem tstImm (v : Imm) (dst : Operand) : Statement (.tstImm v dst) := by
  exact of_pair rfl rfl (operand_bytes dst) (imm_bytes v) (Nat.le_of_ble_eq_true rfl)

theorem xorImm (v : Imm) (dst : Operand) : Statement (.xorImm v dst) := by
  exact of_pair rfl rfl (operand_bytes dst) (imm_bytes v) (Nat.le_of_ble_eq_true rfl)

theorem andGImm (v : Imm) (dst : Operand) : Statement (.andGImm v dst) := by
  exact of_pair rfl rfl (operand_bytes dst) (imm_bytes v) (Nat.le_of_ble_eq_true rfl)

theorem orGImm (v : Imm) (dst : Operand) : Statement (.orGImm v dst) := by
  exact of_pair rfl rfl (operand_bytes dst) (imm_bytes v) (Nat.le_of_ble_eq_true rfl)

theorem addGImm (v : Imm) (dst : Operand) : Statement (.addGImm v dst) := by
  exact of_pair rfl rfl (operand_bytes dst) (imm_bytes v) (Nat.le_of_ble_eq_true rfl)

theorem subGImm (v : Imm) (dst : Operand) : Statement (.subGImm v dst) := by
  exact of_pair rfl rfl (operand_bytes dst) (imm_bytes v) (Nat.le_of_ble_eq_true rfl)

theorem adcImm (v : Imm) (dst : Operand) : Statement (.adcImm v dst) := by
  exact of_pair rfl rfl (operand_bytes dst) (imm_bytes v) (Nat.le_of_ble_eq_true rfl)

theorem sbbImm (v : Imm) (dst : Operand) : Statement (.sbbImm v dst) := by
  exact of_pair rfl rfl (operand_bytes dst) (imm_bytes v) (Nat.le_of_ble_eq_true rfl)

theorem cmpGImm (v : Imm) (dst : Operand) : Statement (.cmpGImm v dst) := by
  exact of_pair rfl rfl (operand_bytes dst) (imm_bytes v) (Nat.le_of_ble_eq_true rfl)

theorem divxSrc (sz : Size) (src : Operand) : Statement (.divxSrc sz src) := by
  exact of_two rfl rfl (operand_bytes src) (Nat.le_of_ble_eq_true rfl)

theorem rolc (sz : Size) (dst : Operand) : Statement (.rolc sz dst) := by
  exact of_two rfl rfl (operand_bytes dst) (Nat.le_of_ble_eq_true rfl)

theorem rorc (sz : Size) (dst : Operand) : Statement (.rorc sz dst) := by
  exact of_two rfl rfl (operand_bytes dst) (Nat.le_of_ble_eq_true rfl)

theorem divuSrc (sz : Size) (src : Operand) : Statement (.divuSrc sz src) := by
  exact of_two rfl rfl (operand_bytes src) (Nat.le_of_ble_eq_true rfl)

theorem divSrc (sz : Size) (src : Operand) : Statement (.divSrc sz src) := by
  exact of_two rfl rfl (operand_bytes src) (Nat.le_of_ble_eq_true rfl)

theorem adcf (sz : Size) (dst : Operand) : Statement (.adcf sz dst) := by
  exact of_two rfl rfl (operand_bytes dst) (Nat.le_of_ble_eq_true rfl)

theorem abs (sz : Size) (dst : Operand) : Statement (.abs sz dst) := by
  exact of_two rfl rfl (operand_bytes dst) (Nat.le_of_ble_eq_true rfl)

theorem mulSrc (sz : Size) (src : Operand) (dst : Operand) : Statement (.mulSrc sz src dst) := by
  exact of_pair rfl rfl (operand_bytes src) (operand_bytes dst) (Nat.le_of_ble_eq_true rfl)

theorem xchg (sz : Size) (src : DReg) (dst : Operand) : Statement (.xchg sz src dst) := by
  exact of_two rfl rfl (operand_bytes dst) (Nat.le_of_ble_eq_true rfl)

theorem ldcSrc (src : Operand) (c : CReg) : Statement (.ldcSrc src c) := by
  exact of_two rfl rfl (operand_bytes src) (Nat.le_of_ble_eq_true rfl)

theorem stcDest (c : CReg) (dst : Operand) : Statement (.stcDest c dst) := by
  exact of_two rfl rfl (operand_bytes dst) (Nat.le_of_ble_eq_true rfl)

theorem movDirToR0L (k : Dir) (src : Operand) : Statement (.movDirToR0L k src) := by
  exact of_two rfl rfl (operand_bytes src) (Nat.le_of_ble_eq_true rfl)

theorem movDirFromR0L (k : Dir) (dst : Operand) : Statement (.movDirFromR0L k dst) := by
  exact of_two rfl rfl (operand_bytes dst) (Nat.le_of_ble_eq_true rfl)

theorem jmpiA (src : JmpA) : Statement (.jmpiA src) := by
  exact of_two rfl rfl (jmpA_bytes src) (Nat.le_of_ble_eq_true rfl)

theorem jsriA (src : JmpA) : Statement (.jsriA src) := by
  exact of_two rfl rfl (jmpA_bytes src) (Nat.le_of_ble_eq_true rfl)

theorem jmpiW (src : JmpW) : Statement (.jmpiW src) := by
  exact of_two rfl rfl (jmpW_bytes src) (Nat.le_of_ble_eq_true rfl)

theorem jsriW (src : JmpW) : Statement (.jsriW src) := by
  exact of_two rfl rfl (jmpW_bytes src) (Nat.le_of_ble_eq_true rfl)

theorem muluImm (v : Imm) (dst : Operand) : Statement (.muluImm v dst) := by
  exact of_pair rfl rfl (operand_bytes dst) (imm_bytes v) (Nat.le_of_ble_eq_true rfl)

theorem mulImm (v : Imm) (dst : Operand) : Statement (.mulImm v dst) := by
  exact of_pair rfl rfl (operand_bytes dst) (imm_bytes v) (Nat.le_of_ble_eq_true rfl)

theorem extsB (dst : Operand) : Statement (.extsB dst) := by
  exact of_two rfl rfl (operand_bytes dst) (Nat.le_of_ble_eq_true rfl)

theorem pusha (src : Ea) : Statement (.pusha src) := by
  exact of_two rfl rfl (ea_bytes src) (Nat.le_of_ble_eq_true rfl)

theorem ldipl (l : BitVec 3) : Statement (.ldipl l) := by
  exact ⟨rfl, Nat.le_of_ble_eq_true rfl, .inl (Nat.le_of_ble_eq_true rfl)⟩

theorem addQSp (v : BitVec 4) : Statement (.addQSp v) := by
  exact ⟨rfl, Nat.le_of_ble_eq_true rfl, .inl (Nat.le_of_ble_eq_true rfl)⟩

theorem stcPc (dst : PcDest) : Statement (.stcPc dst) := by
  exact of_two rfl rfl (pcDest_bytes dst) (Nat.le_of_ble_eq_true rfl)

theorem jcnd16 (c : Cond) (d : BitVec 8) : Statement (.jcnd16 c d) := by
  exact ⟨rfl, Nat.le_of_ble_eq_true rfl, .inl (Nat.le_of_ble_eq_true rfl)⟩

theorem bmcndC (c : Cond) : Statement (.bmcndC c) := by
  exact ⟨rfl, Nat.le_of_ble_eq_true rfl, .inl (Nat.le_of_ble_eq_true rfl)⟩

theorem divuImm (v : Imm) : Statement (.divuImm v) := by
  exact of_two rfl rfl (imm_bytes v) (Nat.le_of_ble_eq_true rfl)

theorem divImm (v : Imm) : Statement (.divImm v) := by
  exact of_two rfl rfl (imm_bytes v) (Nat.le_of_ble_eq_true rfl)

theorem pushGImm (v : Imm) : Statement (.pushGImm v) := by
  exact of_two rfl rfl (imm_bytes v) (Nat.le_of_ble_eq_true rfl)

theorem divxImm (v : Imm) : Statement (.divxImm v) := by
  exact of_two rfl rfl (imm_bytes v) (Nat.le_of_ble_eq_true rfl)

theorem daddBReg : Statement .daddBReg := by
  exact ⟨rfl, Nat.le_of_ble_eq_true rfl, .inl (Nat.le_of_ble_eq_true rfl)⟩

theorem daddWReg : Statement .daddWReg := by
  exact ⟨rfl, Nat.le_of_ble_eq_true rfl, .inl (Nat.le_of_ble_eq_true rfl)⟩

theorem dsubBReg : Statement .dsubBReg := by
  exact ⟨rfl, Nat.le_of_ble_eq_true rfl, .inl (Nat.le_of_ble_eq_true rfl)⟩

theorem dsubWReg : Statement .dsubWReg := by
  exact ⟨rfl, Nat.le_of_ble_eq_true rfl, .inl (Nat.le_of_ble_eq_true rfl)⟩

theorem dadcBReg : Statement .dadcBReg := by
  exact ⟨rfl, Nat.le_of_ble_eq_true rfl, .inl (Nat.le_of_ble_eq_true rfl)⟩

theorem dadcWReg : Statement .dadcWReg := by
  exact ⟨rfl, Nat.le_of_ble_eq_true rfl, .inl (Nat.le_of_ble_eq_true rfl)⟩

theorem dsbbBReg : Statement .dsbbBReg := by
  exact ⟨rfl, Nat.le_of_ble_eq_true rfl, .inl (Nat.le_of_ble_eq_true rfl)⟩

theorem dsbbWReg : Statement .dsbbWReg := by
  exact ⟨rfl, Nat.le_of_ble_eq_true rfl, .inl (Nat.le_of_ble_eq_true rfl)⟩

theorem smovf (sz : Size) : Statement (.smovf sz) := by
  exact ⟨rfl, Nat.le_of_ble_eq_true rfl, .inl (Nat.le_of_ble_eq_true rfl)⟩

theorem smovb (sz : Size) : Statement (.smovb sz) := by
  exact ⟨rfl, Nat.le_of_ble_eq_true rfl, .inl (Nat.le_of_ble_eq_true rfl)⟩

theorem sstr (sz : Size) : Statement (.sstr sz) := by
  exact ⟨rfl, Nat.le_of_ble_eq_true rfl, .inl (Nat.le_of_ble_eq_true rfl)⟩

theorem addGSp (v : Imm) : Statement (.addGSp v) := by
  exact of_two rfl rfl (imm_bytes v) (Nat.le_of_ble_eq_true rfl)

theorem daddBImm (v : BitVec 8) : Statement (.daddBImm v) := by
  exact ⟨rfl, Nat.le_of_ble_eq_true rfl, .inl (Nat.le_of_ble_eq_true rfl)⟩

theorem daddWImm (v : BitVec 16) : Statement (.daddWImm v) := by
  exact ⟨rfl, Nat.le_of_ble_eq_true rfl, .inl (Nat.le_of_ble_eq_true rfl)⟩

theorem dsubBImm (v : BitVec 8) : Statement (.dsubBImm v) := by
  exact ⟨rfl, Nat.le_of_ble_eq_true rfl, .inl (Nat.le_of_ble_eq_true rfl)⟩

theorem dsubWImm (v : BitVec 16) : Statement (.dsubWImm v) := by
  exact ⟨rfl, Nat.le_of_ble_eq_true rfl, .inl (Nat.le_of_ble_eq_true rfl)⟩

theorem dadcBImm (v : BitVec 8) : Statement (.dadcBImm v) := by
  exact ⟨rfl, Nat.le_of_ble_eq_true rfl, .inl (Nat.le_of_ble_eq_true rfl)⟩

theorem dadcWImm (v : BitVec 16) : Statement (.dadcWImm v) := by
  exact ⟨rfl, Nat.le_of_ble_eq_true rfl, .inl (Nat.le_of_ble_eq_true rfl)⟩

theorem dsbbBImm (v : BitVec 8) : Statement (.dsbbBImm v) := by
  exact ⟨rfl, Nat.le_of_ble_eq_true rfl, .inl (Nat.le_of_ble_eq_true rfl)⟩

theorem dsbbWImm (v : BitVec 16) : Statement (.dsbbWImm v) := by
  exact ⟨rfl, Nat.le_of_ble_eq_true rfl, .inl (Nat.le_of_ble_eq_true rfl)⟩

theorem ldctx (num : BitVec 16) (table : BitVec 20) : Statement (.ldctx num table) := by
  exact ⟨rfl, Nat.le_of_ble_eq_true rfl, .inl (Nat.le_of_ble_eq_true rfl)⟩

theorem stctx (num : BitVec 16) (table : BitVec 20) : Statement (.stctx num table) := by
  exact ⟨rfl, Nat.le_of_ble_eq_true rfl, .inl (Nat.le_of_ble_eq_true rfl)⟩

theorem rmpa (sz : Size) : Statement (.rmpa sz) := by
  exact ⟨rfl, Nat.le_of_ble_eq_true rfl, .inl (Nat.le_of_ble_eq_true rfl)⟩

theorem enter (v : BitVec 8) : Statement (.enter v) := by
  exact ⟨rfl, Nat.le_of_ble_eq_true rfl, .inl (Nat.le_of_ble_eq_true rfl)⟩

theorem exitd : Statement .exitd := by
  exact ⟨rfl, Nat.le_of_ble_eq_true rfl, .inl (Nat.le_of_ble_eq_true rfl)⟩

theorem extsW : Statement .extsW := by
  exact ⟨rfl, Nat.le_of_ble_eq_true rfl, .inl (Nat.le_of_ble_eq_true rfl)⟩

theorem wait : Statement .wait := by
  exact ⟨rfl, Nat.le_of_ble_eq_true rfl, .inl (Nat.le_of_ble_eq_true rfl)⟩

theorem btstc (dst : BitOp) : Statement (.btstc dst) := by
  exact of_two rfl rfl (bitOp_bytes dst) (Nat.le_of_ble_eq_true rfl)

theorem btsts (dst : BitOp) : Statement (.btsts dst) := by
  exact of_two rfl rfl (bitOp_bytes dst) (Nat.le_of_ble_eq_true rfl)

theorem bmcnd (dst : BitOp) (c : Cond) : Statement (.bmcnd dst c) := by
  exact of_pair rfl rfl (bitOp_bytes dst) ⟨rfl, Nat.le_refl _⟩ (Nat.le_of_ble_eq_true rfl)

theorem bntst (src : BitOp) : Statement (.bntst src) := by
  exact of_two rfl rfl (bitOp_bytes src) (Nat.le_of_ble_eq_true rfl)

theorem band (src : BitOp) : Statement (.band src) := by
  exact of_two rfl rfl (bitOp_bytes src) (Nat.le_of_ble_eq_true rfl)

theorem bnand (src : BitOp) : Statement (.bnand src) := by
  exact of_two rfl rfl (bitOp_bytes src) (Nat.le_of_ble_eq_true rfl)

theorem bor (src : BitOp) : Statement (.bor src) := by
  exact of_two rfl rfl (bitOp_bytes src) (Nat.le_of_ble_eq_true rfl)

theorem bnor (src : BitOp) : Statement (.bnor src) := by
  exact of_two rfl rfl (bitOp_bytes src) (Nat.le_of_ble_eq_true rfl)

theorem bclrG (dst : BitOp) : Statement (.bclrG dst) := by
  exact of_two rfl rfl (bitOp_bytes dst) (Nat.le_of_ble_eq_true rfl)

theorem bsetG (dst : BitOp) : Statement (.bsetG dst) := by
  exact of_two rfl rfl (bitOp_bytes dst) (Nat.le_of_ble_eq_true rfl)

theorem bnotG (dst : BitOp) : Statement (.bnotG dst) := by
  exact of_two rfl rfl (bitOp_bytes dst) (Nat.le_of_ble_eq_true rfl)

theorem btstG (src : BitOp) : Statement (.btstG src) := by
  exact of_two rfl rfl (bitOp_bytes src) (Nat.le_of_ble_eq_true rfl)

theorem bxor (src : BitOp) : Statement (.bxor src) := by
  exact of_two rfl rfl (bitOp_bytes src) (Nat.le_of_ble_eq_true rfl)

theorem bnxor (src : BitOp) : Statement (.bnxor src) := by
  exact of_two rfl rfl (bitOp_bytes src) (Nat.le_of_ble_eq_true rfl)

theorem tstSrc (sz : Size) (src : Operand) (dst : Operand) : Statement (.tstSrc sz src dst) := by
  exact of_pair rfl rfl (operand_bytes src) (operand_bytes dst) (Nat.le_of_ble_eq_true rfl)

theorem pushBS (h : Half) : Statement (.pushBS h) := by
  exact ⟨rfl, Nat.le_of_ble_eq_true rfl, .inl (Nat.le_of_ble_eq_true rfl)⟩

theorem addBSImm (v : BitVec 8) (dst : ShortDest) : Statement (.addBSImm v dst) := by
  exact of_two rfl rfl (shortDest_bytes dst) (Nat.le_of_ble_eq_true rfl)

theorem xorSrc (sz : Size) (src : Operand) (dst : Operand) : Statement (.xorSrc sz src dst) := by
  exact of_pair rfl rfl (operand_bytes src) (operand_bytes dst) (Nat.le_of_ble_eq_true rfl)

theorem subBSImm (v : BitVec 8) (dst : ShortDest) : Statement (.subBSImm v dst) := by
  exact of_two rfl rfl (shortDest_bytes dst) (Nat.le_of_ble_eq_true rfl)

theorem andGSrc (sz : Size) (src : Operand) (dst : Operand) : Statement (.andGSrc sz src dst) := by
  exact of_pair rfl rfl (operand_bytes src) (operand_bytes dst) (Nat.le_of_ble_eq_true rfl)

theorem popBS (h : Half) : Statement (.popBS h) := by
  exact ⟨rfl, Nat.le_of_ble_eq_true rfl, .inl (Nat.le_of_ble_eq_true rfl)⟩

theorem andBSImm (v : BitVec 8) (dst : ShortDest) : Statement (.andBSImm v dst) := by
  exact of_two rfl rfl (shortDest_bytes dst) (Nat.le_of_ble_eq_true rfl)

theorem orGSrc (sz : Size) (src : Operand) (dst : Operand) : Statement (.orGSrc sz src dst) := by
  exact of_pair rfl rfl (operand_bytes src) (operand_bytes dst) (Nat.le_of_ble_eq_true rfl)

theorem orBSImm (v : BitVec 8) (dst : ShortDest) : Statement (.orBSImm v dst) := by
  exact of_two rfl rfl (shortDest_bytes dst) (Nat.le_of_ble_eq_true rfl)

theorem addGSrc (sz : Size) (src : Operand) (dst : Operand) : Statement (.addGSrc sz src dst) := by
  exact of_pair rfl rfl (operand_bytes src) (operand_bytes dst) (Nat.le_of_ble_eq_true rfl)

theorem movWSImmAn (v : BitVec 16) (a : AReg) : Statement (.movWSImmAn v a) := by
  exact ⟨rfl, Nat.le_of_ble_eq_true rfl, .inl (Nat.le_of_ble_eq_true rfl)⟩

theorem incB (dst : ShortDest) : Statement (.incB dst) := by
  exact of_one rfl rfl (shortDest_bytes dst) (Nat.le_of_ble_eq_true rfl)

theorem subGSrc (sz : Size) (src : Operand) (dst : Operand) : Statement (.subGSrc sz src dst) := by
  exact of_pair rfl rfl (operand_bytes src) (operand_bytes dst) (Nat.le_of_ble_eq_true rfl)

theorem decB (dst : ShortDest) : Statement (.decB dst) := by
  exact of_one rfl rfl (shortDest_bytes dst) (Nat.le_of_ble_eq_true rfl)

theorem adcSrc (sz : Size) (src : Operand) (dst : Operand) : Statement (.adcSrc sz src dst) := by
  exact of_pair rfl rfl (operand_bytes src) (operand_bytes dst) (Nat.le_of_ble_eq_true rfl)

theorem incW (a : AReg) : Statement (.incW a) := by
  exact ⟨rfl, Nat.le_of_ble_eq_true rfl, .inl (Nat.le_of_ble_eq_true rfl)⟩

theorem movBZ (dst : ShortDest) : Statement (.movBZ dst) := by
  exact of_one rfl rfl (shortDest_bytes dst) (Nat.le_of_ble_eq_true rfl)

theorem sbbSrc (sz : Size) (src : Operand) (dst : Operand) : Statement (.sbbSrc sz src dst) := by
  exact of_pair rfl rfl (operand_bytes src) (operand_bytes dst) (Nat.le_of_ble_eq_true rfl)

theorem notBS (dst : ShortDest) : Statement (.notBS dst) := by
  exact of_one rfl rfl (shortDest_bytes dst) (Nat.le_of_ble_eq_true rfl)

theorem cmpGSrc (sz : Size) (src : Operand) (dst : Operand) : Statement (.cmpGSrc sz src dst) := by
  exact of_pair rfl rfl (operand_bytes src) (operand_bytes dst) (Nat.le_of_ble_eq_true rfl)

theorem pushWS (a : AReg) : Statement (.pushWS a) := by
  exact ⟨rfl, Nat.le_of_ble_eq_true rfl, .inl (Nat.le_of_ble_eq_true rfl)⟩

theorem movBSImm (v : BitVec 8) (dst : ShortDest) : Statement (.movBSImm v dst) := by
  exact of_two rfl rfl (shortDest_bytes dst) (Nat.le_of_ble_eq_true rfl)

theorem addQ (sz : Size) (v : BitVec 4) (dst : Operand) : Statement (.addQ sz v dst) := by
  exact of_two rfl rfl (operand_bytes dst) (Nat.le_of_ble_eq_true rfl)

theorem stz (v : BitVec 8) (dst : ShortDest) : Statement (.stz v dst) := by
  exact of_two rfl rfl (shortDest_bytes dst) (Nat.le_of_ble_eq_true rfl)

theorem cmpQ (sz : Size) (v : BitVec 4) (dst : Operand) : Statement (.cmpQ sz v dst) := by
  exact of_two rfl rfl (operand_bytes dst) (Nat.le_of_ble_eq_true rfl)

theorem popWS (a : AReg) : Statement (.popWS a) := by
  exact ⟨rfl, Nat.le_of_ble_eq_true rfl, .inl (Nat.le_of_ble_eq_true rfl)⟩

theorem stnz (v : BitVec 8) (dst : ShortDest) : Statement (.stnz v dst) := by
  exact of_two rfl rfl (shortDest_bytes dst) (Nat.le_of_ble_eq_true rfl)

theorem movQ (sz : Size) (v : BitVec 4) (dst : Operand) : Statement (.movQ sz v dst) := by
  exact of_two rfl rfl (operand_bytes dst) (Nat.le_of_ble_eq_true rfl)

theorem stzx (v1 : BitVec 8) (v2 : BitVec 8) (dst : ShortDest) : Statement (.stzx v1 v2 dst) := by
  exact of_pair rfl rfl (shortDest_bytes dst) ⟨rfl, Nat.le_refl _⟩ (Nat.le_of_ble_eq_true rfl)

theorem rotImm (sz : Size) (n : BitVec 4) (dst : Operand) : Statement (.rotImm sz n dst) := by
  exact of_two rfl rfl (operand_bytes dst) (Nat.le_of_ble_eq_true rfl)

theorem movBSImmAn (v : BitVec 8) (a : AReg) : Statement (.movBSImmAn v a) := by
  exact ⟨rfl, Nat.le_of_ble_eq_true rfl, .inl (Nat.le_of_ble_eq_true rfl)⟩

theorem cmpBSImm (v : BitVec 8) (dst : ShortDest) : Statement (.cmpBSImm v dst) := by
  exact of_two rfl rfl (shortDest_bytes dst) (Nat.le_of_ble_eq_true rfl)

theorem shlImm (sz : Size) (n : BitVec 4) (dst : Operand) : Statement (.shlImm sz n dst) := by
  exact of_two rfl rfl (operand_bytes dst) (Nat.le_of_ble_eq_true rfl)

theorem ldcImm (v : BitVec 16) (c : CReg) : Statement (.ldcImm v c) := by
  exact ⟨rfl, Nat.le_of_ble_eq_true rfl, .inl (Nat.le_of_ble_eq_true rfl)⟩

theorem shlLR1H (p : DPair) : Statement (.shlLR1H p) := by
  exact ⟨rfl, Nat.le_of_ble_eq_true rfl, .inl (Nat.le_of_ble_eq_true rfl)⟩

theorem shaLR1H (p : DPair) : Statement (.shaLR1H p) := by
  exact ⟨rfl, Nat.le_of_ble_eq_true rfl, .inl (Nat.le_of_ble_eq_true rfl)⟩

theorem pushc (c : CReg) : Statement (.pushc c) := by
  exact ⟨rfl, Nat.le_of_ble_eq_true rfl, .inl (Nat.le_of_ble_eq_true rfl)⟩

theorem popc (c : CReg) : Statement (.popc c) := by
  exact ⟨rfl, Nat.le_of_ble_eq_true rfl, .inl (Nat.le_of_ble_eq_true rfl)⟩

theorem fset (f : FlagName) : Statement (.fset f) := by
  exact ⟨rfl, Nat.le_of_ble_eq_true rfl, .inl (Nat.le_of_ble_eq_true rfl)⟩

theorem fclr (f : FlagName) : Statement (.fclr f) := by
  exact ⟨rfl, Nat.le_of_ble_eq_true rfl, .inl (Nat.le_of_ble_eq_true rfl)⟩

theorem mova (src : Ea) (r : Reg16) : Statement (.mova src r) := by
  exact of_two rfl rfl (ea_bytes src) (Nat.le_of_ble_eq_true rfl)

theorem shlLImm (n : BitVec 4) (p : DPair) : Statement (.shlLImm n p) := by
  exact ⟨rfl, Nat.le_of_ble_eq_true rfl, .inl (Nat.le_of_ble_eq_true rfl)⟩

theorem shaLImm (n : BitVec 4) (p : DPair) : Statement (.shaLImm n p) := by
  exact ⟨rfl, Nat.le_of_ble_eq_true rfl, .inl (Nat.le_of_ble_eq_true rfl)⟩

theorem int (n : BitVec 6) : Statement (.int n) := by
  exact ⟨rfl, Nat.le_of_ble_eq_true rfl, .inl (Nat.le_of_ble_eq_true rfl)⟩

theorem pushm (list : BitVec 8) : Statement (.pushm list) := by
  exact ⟨rfl, Nat.le_of_ble_eq_true rfl, .inl (Nat.le_of_ble_eq_true rfl)⟩

theorem popm (list : BitVec 8) : Statement (.popm list) := by
  exact ⟨rfl, Nat.le_of_ble_eq_true rfl, .inl (Nat.le_of_ble_eq_true rfl)⟩

theorem jmps (n : BitVec 8) : Statement (.jmps n) := by
  exact ⟨rfl, Nat.le_of_ble_eq_true rfl, .inl (Nat.le_of_ble_eq_true rfl)⟩

theorem jsrs (n : BitVec 8) : Statement (.jsrs n) := by
  exact ⟨rfl, Nat.le_of_ble_eq_true rfl, .inl (Nat.le_of_ble_eq_true rfl)⟩

theorem shaImm (sz : Size) (n : BitVec 4) (dst : Operand) : Statement (.shaImm sz n dst) := by
  exact of_two rfl rfl (operand_bytes dst) (Nat.le_of_ble_eq_true rfl)

theorem decW (a : AReg) : Statement (.decW a) := by
  exact ⟨rfl, Nat.le_of_ble_eq_true rfl, .inl (Nat.le_of_ble_eq_true rfl)⟩

theorem rts : Statement .rts := by
  exact ⟨rfl, Nat.le_of_ble_eq_true rfl, .inl (Nat.le_of_ble_eq_true rfl)⟩

theorem jmpW (d : BitVec 16) : Statement (.jmpW d) := by
  exact ⟨rfl, Nat.le_of_ble_eq_true rfl, .inl (Nat.le_of_ble_eq_true rfl)⟩

theorem jsrW (d : BitVec 16) : Statement (.jsrW d) := by
  exact ⟨rfl, Nat.le_of_ble_eq_true rfl, .inl (Nat.le_of_ble_eq_true rfl)⟩

theorem into : Statement .into := by
  exact ⟨rfl, Nat.le_of_ble_eq_true rfl, .inl (Nat.le_of_ble_eq_true rfl)⟩

theorem adjnz (sz : Size) (v : BitVec 4) (dst : Operand) (d : BitVec 8) : Statement (.adjnz sz v dst d) := by
  exact of_pair rfl rfl (operand_bytes dst) ⟨rfl, Nat.le_refl _⟩ (Nat.le_of_ble_eq_true rfl)

theorem sbjnz (sz : Size) (v : BitVec 4) (dst : Operand) (d : BitVec 8) : Statement (.sbjnz sz v dst d) := by
  exact of_pair rfl rfl (operand_bytes dst) ⟨rfl, Nat.le_refl _⟩ (Nat.le_of_ble_eq_true rfl)

theorem reit : Statement .reit := by
  exact ⟨rfl, Nat.le_of_ble_eq_true rfl, .inl (Nat.le_of_ble_eq_true rfl)⟩

theorem jmpA (a : BitVec 20) : Statement (.jmpA a) := by
  exact ⟨rfl, Nat.le_of_ble_eq_true rfl, .inl (Nat.le_of_ble_eq_true rfl)⟩

theorem jsrA (a : BitVec 20) : Statement (.jsrA a) := by
  exact ⟨rfl, Nat.le_of_ble_eq_true rfl, .inl (Nat.le_of_ble_eq_true rfl)⟩

theorem jmpB (d : BitVec 8) : Statement (.jmpB d) := by
  exact ⟨rfl, Nat.le_of_ble_eq_true rfl, .inl (Nat.le_of_ble_eq_true rfl)⟩

theorem und : Statement .und := by
  exact ⟨rfl, Nat.le_of_ble_eq_true rfl, .inl (Nat.le_of_ble_eq_true rfl)⟩

theorem ldintb (v : BitVec 20) : Statement (.ldintb v) := by
  exact ⟨rfl, Nat.le_of_ble_eq_true rfl, .inr ⟨v, rfl⟩⟩

end Sys2Proof.Laws.Encoding
end

