-- ==== Sys2Proof/Laws/Results.lean ====
section
/-! SUPPORT. What the shared operations compute: the value at a location after a write, the flags of sums and
differences, and the results of the two-operand, one-operand and transfer shapes. -/

namespace Sys2Proof.Machine

/-! Locations. -/

theorem loByte_of_byte (v : Byte) : loByte (v.setWidth 16) = v := by
  unfold loByte; rw [BitVec.extractLsb'_setWidth_of_le (by decide), BitVec.extractLsb'_eq_self]

/-- A completed write leaves the value at the location and FLG alone. -/
theorem writeLoc_result {k : StoreKind} {z : Size} {l : Loc} {v : BitVec (Size.bits z)} {s t : State}
    (h : writeLoc k z l v s = .next t) : t.valueAt z l = v ∧ t.flg = s.flg := by
  cases z <;> cases l <;> simp only [writeLoc] at h
  case b.data r => injection h with h; subst h; exact ⟨State.setDreg8_dreg8 s r v, by cases r <;> rfl⟩
  case w.data r => injection h with h; subst h; exact ⟨State.setDreg16_dreg16 s r v, by cases r <;> rfl⟩
  case b.addr a =>
    injection h with h; subst h
    exact ⟨by simp only [State.valueAt, State.setAreg_areg]; exact loByte_of_byte v, by cases a <;> rfl⟩
  case w.addr a => injection h with h; subst h; exact ⟨State.setAreg_areg s a v, by cases a <;> rfl⟩
  case b.mem a =>
    obtain ⟨-, rfl⟩ := writeByte_eq_next.mp h
    exact ⟨stored_read_same k a v s, rfl⟩
  case w.mem a =>
    rcases writeWord_stores k a v s with ⟨-, u, hu, ht, h0, h1⟩ | ⟨_, _, _, he⟩ | ⟨_, _, _, _, he⟩
    · rw [show writeMem k .w a v s = writeWord k a v s from rfl, hu] at h
      injection h with h; subst h
      exact ⟨by rw [State.valueAt, wordAt, h0, h1]; exact hiByte_loByte v, ht.flg⟩
    · rw [show writeMem k .w a v s = writeWord k a v s from rfl, he] at h; cases h
    · rw [show writeMem k .w a v s = writeWord k a v s from rfl, he] at h; cases h

/-- Reading an operand leaves FLG alone. -/
theorem readLoc_flg (z : Size) (l : Loc) (s : State) : (readLoc z l s).2.flg = s.flg := (readLoc_touches z l s).flg

/-- The relation a two-operand instruction leaves may be weakened. -/
theorem TwoOperands.leaves_mono {p : TwoOperands} {t : State}
    {rel rel' : (w : Nat) → BitVec w → BitVec w → BitVec w → Prop} (h : p.leaves t rel)
    (k : ∀ w d v r, rel w d v r → rel' w d v r) : p.leaves t rel' := by
  obtain ⟨z, v, l, s⟩ := p
  cases z <;> cases l <;> exact k _ _ _ _ h

/-- `aluTo`: the operation's result at the destination and its flags, at the width of R102. -/
theorem aluTo_result {op : AluOp} {z : Size} {v : BitVec (Size.bits z)} {l : Loc} {s t : State}
    (h : aluTo op z v l s = .next t) :
    TwoOperands.leaves ⟨z, v, l, s⟩ t fun w d v r => r = (op w d v s.flg).1 ∧ t.flg = (op w d v s.flg).2 := by
  cases z <;> cases l
  case b.addr a =>
    injection h with h; subst h
    refine ⟨State.setAreg_areg _ _ _, by cases a <;> rfl⟩
  all_goals
    simp only [aluTo] at h
    have := writeLoc_result h
    simp only [State.setFlg_flg, readLoc_flg] at this
    exact this

/-- `aluTest`: only the operation's flags. -/
theorem aluTest_result (op : AluOp) (z : Size) (v : BitVec (Size.bits z)) (l : Loc) (s : State) :
    ∃ t, aluTest op z v l s = .next t ∧
      TwoOperands.leaves ⟨z, v, l, s⟩ t fun w d v _ => t.flg = (op w d v s.flg).2 := by
  cases z <;> cases l
  case b.addr a => exact ⟨_, rfl, rfl⟩
  all_goals
    refine ⟨_, rfl, ?_⟩
    show _ = _
    simp only [State.setFlg_flg, readLoc_flg]

/-- `unaryTo`: the operation's result at the location and its flags. -/
theorem unaryTo_result {op : UnaryOp} {z : Size} {l : Loc} {s t : State} (h : unaryTo op z l s = .next t) :
    t.valueAt z l = (op (Size.bits z) (readLoc z l s).1 s.flg).1 ∧
      t.flg = (op (Size.bits z) (readLoc z l s).1 s.flg).2 := by
  have := writeLoc_result h
  simp only [readLoc_flg] at this
  exact this

/-- `moveTo`: the value, at 16 bits for `.B` with A0 or A1, and S and Z from it. -/
theorem moveTo_result {k : StoreKind} {z : Size} {v : BitVec (Size.bits z)} {l : Loc} {s t : State}
    (h : moveTo k z v l s = .next t) :
    TwoOperands.leaves ⟨z, v, l, s⟩ t fun _ _ v r => r = v ∧ t.flg = setSZ v s.flg := by
  cases z <;> cases l
  case b.addr a =>
    injection h with h; subst h
    refine ⟨State.setAreg_areg _ _ _, by cases a <;> rfl⟩
  all_goals
    simp only [moveTo] at h
    exact writeLoc_result h

/-! Flags. -/

theorem setSZ_shows {w : Nat} (v : BitVec w) (f : Flg) : showsSZ v (setSZ v f) :=
  ⟨rfl, by simp only [setSZ]; by_cases h : v = 0#w <;> simp [h]⟩

/-- `addFlags`: the sum modulo 2^w and the flags of R14. -/
theorem addFlags_result {w : Nat} (a b : BitVec w) (c : Bool) (f : Flg) :
    (addFlags a b c f).1 = a + b + BitVec.ofNat w c.toNat ∧ showsSum a b c (addFlags a b c f).2 := by
  have h : BitVec.ofNat w (a.toNat + b.toNat + c.toNat) = a + b + BitVec.ofNat w c.toNat := by
    apply BitVec.eq_of_toNat_eq
    simp [BitVec.toNat_add, Nat.add_mod]
  refine ⟨h, rfl, ?_, ?_⟩
  · simp [addFlags, showsO, setSZ, outOfRange, Bool.decide_or]
  · have := setSZ_shows (BitVec.ofNat w (a.toNat + b.toNat + c.toNat))
      { f with c := decide (a.toNat + b.toNat + c.toNat > 2 ^ w - 1)
               o := outOfRange w (a.toInt + b.toInt + (c.toNat : Int)) }
    rw [h] at this
    simpa [addFlags, h] using this

/-- `subFlags`: the difference modulo 2^w and the flags of R14. -/
theorem subFlags_result {w : Nat} (a b : BitVec w) (c : Bool) (f : Flg) :
    (subFlags a b c f).1 = a - b - BitVec.ofNat w c.toNat ∧ showsDiff a b c (subFlags a b c f).2 := by
  have h : BitVec.ofInt w ((a.toNat : Int) - b.toNat - c.toNat) = a - b - BitVec.ofNat w c.toNat := by
    rw [Int.sub_eq_add_neg, Int.sub_eq_add_neg, BitVec.ofInt_add, BitVec.ofInt_add, BitVec.ofInt_neg, BitVec.ofInt_neg]
    simp only [BitVec.ofInt_natCast, BitVec.ofNat_toNat, BitVec.setWidth_eq, BitVec.sub_eq_add_neg]
  refine ⟨h, ?_, ?_, ?_⟩
  · show decide _ = decide _
    exact decide_eq_decide.mpr (by omega)
  · simp [subFlags, showsO, setSZ, outOfRange, Bool.decide_or]
  · have := setSZ_shows (BitVec.ofInt w ((a.toNat : Int) - b.toNat - c.toNat))
      { f with c := decide ((a.toNat : Int) - b.toNat - c.toNat ≥ 0)
               o := outOfRange w (a.toInt - b.toInt - (c.toNat : Int)) }
    rw [h] at this
    simpa [subFlags, h] using this

end Sys2Proof.Machine
end

