-- ==== Sys2Proof/Tests/Slice0.lean ====
section
/-! SUPPORT. The model's own tests: words written out from the encodings of spec/30_encoding.md and the family files,
single steps with the expected values of spec/95_test_vectors.md, ill-formed terms, and a witness for the hypotheses of
every statement that has some. -/

namespace Sys2Proof.Machine.Tests
open Sys2Proof Sys2Proof.Machine

/-- The bytes are exactly the instruction. -/
def reads (bs : List Byte) (i : Instr) : Bool :=
  match decode bs with
  | .ok (j, []) => j == i
  | _ => false

/-- A state with one flag given. -/
def flag (n : FlagName) (v : Bool) (s : State) : State := s.setFlg (s.flg.put n v)

/-- One step from a shadowed boundary: the bytes at `pc`, the listed cells, registers as set; what holds after. -/
def runs (pc : Addr) (bs : List Byte) (cells : List Host.Cell) (f : State → State) (g : State → Bool) : Bool :=
  match step { f { State.reset with isp := 0x0900, usp := 0x0780 } with
      pc := pc, mem := placeBytes bs pc (memFill 0xFFFFF [] cells) } with
  | .next t => g t
  | _ => false

/-- One step from a boundary at which requests are examined. -/
def boundary (cells : List Host.Cell) (f : State → State) (g : State → Bool) : Bool :=
  match step { f { State.reset with isp := 0x0900, intShadow := false } with mem := memFill 0xFFFFF [] cells } with
  | .next t => g t
  | _ => false

/-- The term is no instruction and `exec` refuses it by name. -/
def refuses (i : Instr) : Bool :=
  !i.wellFormed && (match exec i State.reset with
    | .refused .reservedEncoding => true
    | _ => false)

/-! Decoding: words written out from the tables of R150 to R166 and the family files. -/

theorem test_decode_other_1 :
    (reads [0x00] .brk &&
      reads [0x04] .nop &&
      reads [0x7A, 0xCB, 0x7F] (.ldcSrc (.mem (.fb8 0x7F)) .isp) &&
      reads [0x7B, 0xB1] (.stcDest .flg (.data .d1)) &&
      reads [0x7D, 0xA5] (.ldipl 5) &&
      reads [0x7C, 0xC1] (.stcPc (.pair .r3r1)) &&
      reads [0x7C, 0xF0, 0x12, 0x04, 0x34, 0x00, 0x0E] (.ldctx 0x0412 0xE0034) &&
      reads [0x7D, 0xF0, 0x13, 0x04, 0x35, 0x00, 0x0E] (.stctx 0x0413 0xE0035) &&
      reads [0x7C, 0xF2, 0x20] (.enter 0x20) &&
      reads [0x7D, 0xF2] .exitd &&
      reads [0x7D, 0xF3] .wait &&
      reads [0xEB, 0x20, 0x0F, 0x00] (.ldcImm 0x000F .intbh)) = true := by decide

theorem test_decode_other_2 :
    (reads [0xEB, 0x72] (.pushc .fb) &&
      reads [0xEB, 0x63] (.popc .sb) &&
      reads [0xEB, 0x64] (.fset .i) &&
      reads [0xEB, 0x75] (.fclr .u) &&
      reads [0xEB, 0xEA] (.int 0x2A) &&
      reads [0xF6] .into &&
      reads [0xFB] .reit &&
      reads [0xFF] .und) = true := by decide

theorem test_decode_transfer_1 :
    (reads [0x07, 0x34, 0x12] (.movBSHalfDest .r0h (.abs16 0x1234)) &&
      reads [0x0D, 0x5A] (.movBSSrcHalf .r0h (.mem (.sb8 0x5A))) &&
      reads [0x35, 0x12] (.movBSSrcAn .a1 (.mem (.sb8 0x12))) &&
      reads [0x73, 0x8F, 0x11, 0x33, 0x22] (.movGSrc .w (.mem (.rel8 .a0 0x11)) (.mem (.abs16 0x2233))) &&
      reads [0x74, 0x02, 0x34, 0x12, 0x05] (.steAbs20 .b (.data .d2) 0x51234) &&
      reads [0x75, 0x1B, 0x80, 0xDE, 0xBC, 0x0A] (.steDsp20 .w (.mem (.fb8 0x80)) 0xABCDE) &&
      reads [0x74, 0x25] (.steA1A0 .b (.addr .a1)) &&
      reads [0x75, 0x3D, 0x66, 0x55, 0x77] (.movGToSp .w (.mem (.rel16 .a1 0x5566)) 0x77) &&
      reads [0x75, 0x4E, 0x02, 0x01] (.pushG .w (.mem (.sb16 0x0102))) &&
      reads [0x75, 0x89, 0x22, 0x34, 0x12, 0x0F] (.ldeAbs20 .w 0xF1234 (.mem (.rel8 .a1 0x22))) &&
      reads [0x74, 0x91, 0x01, 0x00, 0x00] (.ldeDsp20 .b 0x00001 (.data .d1)) &&
      reads [0x75, 0xA4] (.ldeA1A0 .w (.addr .a0))) = true := by decide

theorem test_decode_transfer_2 :
    (reads [0x74, 0xBA, 0x33, 0xFF] (.movGFromSp .b 0xFF (.mem (.sb8 0x33))) &&
      reads [0x75, 0xCF, 0x00, 0x04, 0xEF, 0xBE] (.movGImm (.w 0xBEEF) (.mem (.abs16 0x0400))) &&
      reads [0x74, 0xD6] (.popG .b (.mem (.ind .a0))) &&
      reads [0x7B, 0x29, 0x09] (.xchg .w .d2 (.mem (.rel8 .a1 0x09))) &&
      reads [0x7C, 0x23] (.movDirToR0L .lh (.data .d3)) &&
      reads [0x7C, 0x9F, 0x20, 0x04] (.movDirFromR0L .hl (.mem (.abs16 0x0420))) &&
      reads [0x7D, 0x98, 0x0A] (.pusha (.rel8 .a0 0x0A)) &&
      reads [0x7D, 0xE2, 0xCD, 0xAB] (.pushGImm (.w 0xABCD)) &&
      reads [0x8A] (.pushBS .r0h) &&
      reads [0x92] (.popBS .r0l) &&
      reads [0xAA, 0x34, 0x12] (.movWSImmAn 0x1234 .a1) &&
      reads [0xB5, 0x14] (.movBZ (.mem (.sb8 0x14)))) = true := by decide

theorem test_decode_transfer_3 :
    (reads [0xC2] (.pushWS .a0) &&
      reads [0xC7, 0x66, 0x40, 0x04] (.movBSImm 0x66 (.mem (.abs16 0x0440))) &&
      reads [0xCC, 0x77] (.stz 0x77 (.half .r0l)) &&
      reads [0xDA] (.popWS .a1) &&
      reads [0xD5, 0x88, 0x16] (.stnz 0x88 (.mem (.sb8 0x16))) &&
      reads [0xD8, 0xF9, 0x17] (.movQ .b 0xF (.mem (.rel8 .a1 0x17))) &&
      reads [0xDF, 0x01, 0x50, 0x04, 0x02] (.stzx 0x01 0x02 (.mem (.abs16 0x0450))) &&
      reads [0xE2, 0x99] (.movBSImmAn 0x99 .a0) &&
      reads [0xEB, 0x4B, 0xF8] (.mova (.fb8 0xF8) .a0) &&
      reads [0xEC, 0xC1] (.pushm 0xC1) &&
      reads [0xED, 0x83] (.popm 0x83)) = true := by decide

theorem test_decode_logic_1 :
    (reads [0x10] (.andBSSrc .r0l .other) &&
      reads [0x1E, 0xFE] (.orBSSrc .r0h (.mem (.fb8 0xFE))) &&
      reads [0x75, 0x77] (.notG .w (.mem (.ind .a1))) &&
      reads [0x76, 0x00, 0x80] (.tstImm (.b 0x80) (.data .d0)) &&
      reads [0x77, 0x15, 0xFF, 0x00] (.xorImm (.w 0x00FF) (.addr .a1)) &&
      reads [0x76, 0x2A, 0x44, 0x0F] (.andGImm (.b 0x0F) (.mem (.sb8 0x44))) &&
      reads [0x77, 0x33, 0x01, 0x80] (.orGImm (.w 0x8001) (.data .d3)) &&
      reads [0x80, 0x16] (.tstSrc .b (.data .d1) (.mem (.ind .a0))) &&
      reads [0x89, 0x61] (.xorSrc .w (.mem (.ind .a0)) (.data .d1)) &&
      reads [0x91, 0xAD, 0x0E, 0x10, 0x0F] (.andGSrc .w (.mem (.sb8 0x0E)) (.mem (.rel16 .a1 0x0F10))) &&
      reads [0x96, 0x33, 0x11] (.andBSImm 0x33 (.mem (.fb8 0x11))) &&
      reads [0x98, 0x43] (.orGSrc .b (.addr .a0) (.data .d3))) = true := by decide

theorem test_decode_logic_2 :
    (reads [0x9C, 0x44] (.orBSImm 0x44 (.half .r0l)) &&
      reads [0xBE, 0x15] (.notBS (.mem (.fb8 0x15)))) = true := by decide

theorem test_decode_arithmetic_1 :
    (reads [0x23, 0x80, 0x04] (.addBSSrc .r0l (.mem (.abs16 0x0480))) &&
      reads [0x2C] (.subBSSrc .r0h .other) &&
      reads [0x39, 0x21] (.cmpBSSrc .r0l (.mem (.sb8 0x21))) &&
      reads [0x74, 0x53] (.neg .b (.data .d3)) &&
      reads [0x76, 0x4B, 0xF0, 0x55] (.addGImm (.b 0x55) (.mem (.fb8 0xF0))) &&
      reads [0x77, 0x58, 0x01, 0x03, 0x02] (.subGImm (.w 0x0203) (.mem (.rel8 .a0 0x01))) &&
      reads [0x76, 0x64, 0x7F] (.adcImm (.b 0x7F) (.addr .a0)) &&
      reads [0x77, 0x7E, 0x04, 0x03, 0xFE, 0xFF] (.sbbImm (.w 0xFFFE) (.mem (.sb16 0x0304))) &&
      reads [0x76, 0x8F, 0x00, 0x05, 0x10] (.cmpGImm (.b 0x10) (.mem (.abs16 0x0500))) &&
      reads [0x77, 0xE5] (.adcf .w (.addr .a1)) &&
      reads [0x76, 0xF0] (.abs .b (.data .d0)) &&
      reads [0x7C, 0x6E, 0x06, 0x05] (.extsB (.mem (.sb16 0x0506)))) = true := by decide

theorem test_decode_arithmetic_2 :
    (reads [0x7D, 0xBE] (.addQSp 0xE) &&
      reads [0x7D, 0xEB, 0xF0, 0xFF] (.addGSp (.w 0xFFF0)) &&
      reads [0x7C, 0xF3] .extsW &&
      reads [0x83, 0x11] (.addBSImm 0x11 (.half .r0h)) &&
      reads [0x8D, 0x22, 0x0D] (.subBSImm 0x22 (.mem (.sb8 0x0D))) &&
      reads [0xA0, 0x04] (.addGSrc .b (.data .d0) (.addr .a0)) &&
      reads [0xA7, 0x30, 0x04] (.incB (.mem (.abs16 0x0430))) &&
      reads [0xA9, 0xB3, 0x12] (.subGSrc .w (.mem (.fb8 0x12)) (.data .d3)) &&
      reads [0xAB] (.decB (.half .r0h)) &&
      reads [0xB1, 0x18, 0x13] (.adcSrc .w (.data .d1) (.mem (.rel8 .a0 0x13))) &&
      reads [0xB2] (.incW .a0) &&
      reads [0xB8, 0x12] (.sbbSrc .b (.data .d1) (.data .d2))) = true := by decide

theorem test_decode_arithmetic_3 :
    (reads [0xC1, 0x54] (.cmpGSrc .w (.addr .a1) (.addr .a0)) &&
      reads [0xC9, 0x93] (.addQ .w 0x9 (.data .d3)) &&
      reads [0xD0, 0x8E, 0x12, 0x11] (.cmpQ .b 0x8 (.mem (.sb16 0x1112))) &&
      reads [0xE6, 0xAA, 0x18] (.cmpBSImm 0xAA (.mem (.fb8 0x18))) &&
      reads [0xFA] (.decW .a1)) = true := by decide

theorem test_decode_bit_1 :
    (reads [0x45, 0x43] (.bclrS 5 0x43) &&
      reads [0x49, 0x87] (.bsetS 1 0x87) &&
      reads [0x56, 0x0F] (.bnotS 6 0x0F) &&
      reads [0x5F, 0xF0] (.btstS 7 0xF0) &&
      reads [0x7D, 0xDD] (.bmcndC .no) &&
      reads [0x7E, 0x01, 0x0C] (.btstc (.reg .r1 12)) &&
      reads [0x7E, 0x16] (.btsts (.ind .a0)) &&
      reads [0x7E, 0x2A, 0x1C, 0xFE] (.bmcnd (.sb8 0x1C) .lt) &&
      reads [0x7E, 0x39, 0x40] (.bntst (.rel8 .a1 0x40)) &&
      reads [0x7E, 0x45, 0x03] (.band (.reg .a1 3)) &&
      reads [0x7E, 0x5B, 0xFF] (.bnand (.fb8 0xFF)) &&
      reads [0x7E, 0x6C, 0x08, 0x07] (.bor (.rel16 .a0 0x0708))) = true := by decide

theorem test_decode_bit_2 :
    (reads [0x7E, 0x7E, 0x0A, 0x09] (.bnor (.sb16 0x090A)) &&
      reads [0x7E, 0x8F, 0x0C, 0x0B] (.bclrG (.abs16 0x0B0C)) &&
      reads [0x7E, 0x9F, 0x52, 0x00] (.bsetG (.abs16 0x0052)) &&
      reads [0x7E, 0xA0, 0x00] (.bnotG (.reg .r0 0)) &&
      reads [0x7E, 0xB3, 0x0F] (.btstG (.reg .r3 15)) &&
      reads [0x7E, 0xC7] (.bxor (.ind .a1)) &&
      reads [0x7E, 0xD8, 0x01] (.bnxor (.rel8 .a0 0x01))) = true := by decide

theorem test_decode_jump_1 :
    (reads [0x65] (.jmpS 5) &&
      reads [0x6D, 0xFD] (.jcnd8 .leu 0xFD) &&
      reads [0x7D, 0x0D, 0x45, 0x23, 0x01] (.jmpiA (.mem (.rel20 .a1 0x12345))) &&
      reads [0x7D, 0x14] (.jsriA (.pair .a1a0)) &&
      reads [0x7D, 0x25] (.jmpiW (.reg .a1)) &&
      reads [0x7D, 0x3C, 0x00, 0x00, 0x0F] (.jsriW (.mem (.rel20 .a0 0xF0000))) &&
      reads [0x7D, 0xCC, 0x80] (.jcnd16 .gt 0x80) &&
      reads [0xEE, 0x12] (.jmps 0x12) &&
      reads [0xEF, 0xFF] (.jsrs 0xFF) &&
      reads [0xF3] .rts &&
      reads [0xF4, 0xFD, 0xFF] (.jmpW 0xFFFD) &&
      reads [0xF5, 0x34, 0x12] (.jsrW 0x1234)) = true := by decide

theorem test_decode_jump_2 :
    (reads [0xF9, 0xFA, 0x19, 0xFB] (.adjnz .w 0xF (.mem (.sb8 0x19)) 0xFB) &&
      reads [0xFC, 0x34, 0x12, 0x0C] (.jmpA 0xC1234) &&
      reads [0xFD, 0x78, 0x56, 0x0D] (.jsrA 0xD5678) &&
      reads [0xFE, 0x7E] (.jmpB 0x7E)) = true := by decide

theorem test_decode_decimal_1 :
    (reads [0x71, 0x3A, 0x10] (.muluSrc .w (.data .d3) (.mem (.sb8 0x10))) &&
      reads [0x76, 0x92] (.divxSrc .b (.data .d2)) &&
      reads [0x77, 0xCD, 0x07, 0x06] (.divuSrc .w (.mem (.rel16 .a1 0x0607))) &&
      reads [0x76, 0xDA, 0x08] (.divSrc .b (.mem (.sb8 0x08))) &&
      reads [0x78, 0xF2, 0x10, 0x04] (.mulSrc .b (.mem (.abs16 0x0410)) (.data .d2)) &&
      reads [0x7C, 0x42, 0xC8] (.muluImm (.b 0xC8) (.data .d2)) &&
      reads [0x7D, 0x51, 0xFF, 0xFF] (.mulImm (.w 0xFFFF) (.data .d1)) &&
      reads [0x7D, 0xE0, 0x10, 0x00] (.divuImm (.w 0x0010)) &&
      reads [0x7C, 0xE1, 0xFD] (.divImm (.b 0xFD)) &&
      reads [0x7C, 0xE3, 0x03] (.divxImm (.b 0x03)) &&
      reads [0x7C, 0xE4] .daddBReg &&
      reads [0x7D, 0xE4] .daddWReg) = true := by decide

theorem test_decode_decimal_2 :
    (reads [0x7C, 0xE5] .dsubBReg &&
      reads [0x7D, 0xE5] .dsubWReg &&
      reads [0x7C, 0xE6] .dadcBReg &&
      reads [0x7D, 0xE6] .dadcWReg &&
      reads [0x7C, 0xE7] .dsbbBReg &&
      reads [0x7D, 0xE7] .dsbbWReg &&
      reads [0x7C, 0xEC, 0x19] (.daddBImm 0x19) &&
      reads [0x7D, 0xEC, 0x99, 0x19] (.daddWImm 0x1999) &&
      reads [0x7C, 0xED, 0x28] (.dsubBImm 0x28) &&
      reads [0x7D, 0xED, 0x88, 0x28] (.dsubWImm 0x2888) &&
      reads [0x7C, 0xEE, 0x37] (.dadcBImm 0x37) &&
      reads [0x7D, 0xEE, 0x77, 0x37] (.dadcWImm 0x3777)) = true := by decide

theorem test_decode_decimal_3 :
    (reads [0x7C, 0xEF, 0x46] (.dsbbBImm 0x46) &&
      reads [0x7D, 0xEF, 0x66, 0x46] (.dsbbWImm 0x4666) &&
      reads [0x7D, 0xF1] (.rmpa .w)) = true := by decide

theorem test_decode_shift :
    (reads [0x74, 0x61] (.rotR1H .b (.data .d1)) &&
      reads [0x75, 0xE2] (.shlR1H .w (.data .d2)) &&
      reads [0x74, 0xFC, 0x00, 0x10] (.shaR1H .b (.mem (.rel16 .a0 0x1000))) &&
      reads [0x77, 0xA1] (.rolc .w (.data .d1)) &&
      reads [0x76, 0xB7] (.rorc .b (.mem (.ind .a1))) &&
      reads [0xE0, 0xA1] (.rotImm .b 0xA (.data .d1)) &&
      reads [0xE9, 0x37] (.shlImm .w 0x3 (.mem (.ind .a1))) &&
      reads [0xEB, 0x01] (.shlLR1H .r2r0) &&
      reads [0xEB, 0x31] (.shaLR1H .r3r1) &&
      reads [0xEB, 0x9C] (.shlLImm 0xC .r3r1) &&
      reads [0xEB, 0xA7] (.shaLImm 0x7 .r2r0) &&
      reads [0xF1, 0xF0] (.shaImm .w 0xF (.data .d0))) = true := by decide

theorem test_decode_string :
    (reads [0x7D, 0xE8] (.smovf .w) &&
      reads [0x7C, 0xE9] (.smovb .b) &&
      reads [0x7D, 0xEA] (.sstr .w)) = true := by decide

/-! Single steps: the spec's vectors. -/

/-- T1 of 95_test_vectors.md part 2. -/
theorem test_run_movGImm : runs 0xF7000 [0x74, 0xC0, 0x80] [] (fun s => s.setDreg16 .d0 0x1234)
    (fun t => t.dreg16 .d0 == 0x1280 && t.flg.s == true && t.flg.z == false) = true := by decide

/-- T3 of 95_test_vectors.md part 2. -/
theorem test_run_movQ : runs 0xF7000 [0xD8, 0xF0] [] (fun s => s.setDreg8 .d0 0x00)
    (fun t => t.dreg8 .d0 == 0xFF && t.flg.s == true && t.flg.z == false) = true := by decide

/-- T8 of 95_test_vectors.md part 2. -/
theorem test_run_movBSSrcAn : runs 0xF7000 [0x34] [] (fun s => s.setDreg8 .d0 0x80)
    (fun t => t.areg .a1 == 0x0080 && t.flg.s == false && t.flg.z == false) = true := by decide

/-- T9 of 95_test_vectors.md part 2. -/
theorem test_run_movGSrc : runs 0xF7000 [0x72, 0x04] [] (fun s => (s.setDreg8 .d0 0x00).setAreg .a0 0xFFFF)
    (fun t => t.areg .a0 == 0x0000 && t.flg.s == false && t.flg.z == true) = true := by decide

/-- T16 of 95_test_vectors.md part 2. -/
theorem test_run_movBSHalfDest : runs 0xF7000 [0x05, 0x05] [] (fun s => { (s.setDreg8 .d1 0x00) with sb := 0x0400 })
    (fun t => memGet t.mem 0x00405 == 0x00 && t.flg.s == false && t.flg.z == true) = true := by decide

/-- T18 of 95_test_vectors.md part 2. -/
theorem test_run_movGFromSp : runs 0xF7000 [0x75, 0xB0, 0x02] [(0x007FE, 0x80), (0x007FF, 0x0F)]
    (fun s => { (flag .u false s) with isp := 0x07FC })
    (fun t => t.dreg16 .d0 == 0x0F80 && t.flg.s == false && t.flg.z == false) = true := by decide

/-- T19 of 95_test_vectors.md part 2. -/
theorem test_run_movGToSp : runs 0xF7000 [0x74, 0x30, 0xFF] []
    (fun s => { ((flag .u true s).setDreg8 .d0 0xA5) with usp := 0x0700 })
    (fun t => memGet t.mem 0x006FF == 0xA5 && t.flg.s == true && t.flg.z == false) = true := by decide

/-- T20 of 95_test_vectors.md part 2. -/
theorem test_run_mova : runs 0xF7000 [0xEB, 0x4A, 0x10] [] (fun s => { s with sb := 0x0400 })
    (fun t => t.areg .a0 == 0x0410) = true := by decide

/-- T22 of 95_test_vectors.md part 2. -/
theorem test_run_movDirFromR0L : runs 0xF7000 [0x7C, 0x81] [] (fun s => (s.setDreg8 .d0 0xA5).setDreg8 .d1 0x3C)
    (fun t => t.dreg8 .d1 == 0x35) = true := by decide

/-- T23 of 95_test_vectors.md part 2. -/
theorem test_run_movDirToR0L : runs 0xF7000 [0x7C, 0x32] [] (fun s => (s.setDreg8 .d2 0xF0).setDreg8 .d0 0x0A)
    (fun t => t.dreg8 .d0 == 0xFA) = true := by decide

/-- T29 of 95_test_vectors.md part 2. -/
theorem test_run_pushWS : runs 0xF7000 [0xC2] [] (fun s => { (s.setAreg .a0 0xBEEF) with isp := 0x0000 })
    (fun t => memGet t.mem 0x0FFFE == 0xEF && memGet t.mem 0x0FFFF == 0xBE && t.isp == 0xFFFE) = true := by decide

/-- T30 of 95_test_vectors.md part 2. -/
theorem test_run_popG : runs 0xF7000 [0x75, 0xD1] [(0x007FE, 0x34), (0x007FF, 0x12)]
    (fun s => { s with isp := 0x07FE }) (fun t => t.dreg16 .d1 == 0x1234 && t.isp == 0x0800) = true := by decide

/-- T32 of 95_test_vectors.md part 2. -/
theorem test_run_pushm : runs 0xF7000 [0xEC, 0xC0] []
    (fun s => { ((s.setDreg16 .d0 0x1111).setDreg16 .d1 0x2222) with isp := 0x0800 })
    (fun t => memGet t.mem 0x007FC == 0x11 && memGet t.mem 0x007FD == 0x11 && memGet t.mem 0x007FE == 0x22 &&
      memGet t.mem 0x007FF == 0x22 && t.isp == 0x07FC) = true := by decide

/-- T41 of 95_test_vectors.md part 2. -/
theorem test_run_ldeA1A0 : runs 0xF7000 [0x75, 0xA0] [(0xF0100, 0x34), (0xF0101, 0x12)]
    (fun s => (s.setAreg .a1 0x000F).setAreg .a0 0x0100) (fun t => t.dreg16 .d0 == 0x1234) = true := by decide

/-- T43 of 95_test_vectors.md part 2. -/
theorem test_run_steDsp20 : runs 0xF7000 [0x75, 0x10, 0x00, 0x00, 0x01] []
    (fun s => (s.setAreg .a0 0x0002).setDreg16 .d0 0xBEEF)
    (fun t => memGet t.mem 0x10002 == 0xEF && memGet t.mem 0x10003 == 0xBE && t.flg.s == true &&
      t.flg.z == false) = true := by decide

/-- T44 of 95_test_vectors.md part 2. -/
theorem test_run_steA1A0 : runs 0xF7000 [0x74, 0x24] [] (fun s => (s.setAreg .a1 0x0000).setAreg .a0 0x8000)
    (fun t => memGet t.mem 0x08000 == 0x00 && t.flg.s == true && t.flg.z == false) = true := by decide

/-- T48 of 95_test_vectors.md part 2. -/
theorem test_run_stzx : runs 0xF7000 [0xDF, 0x01, 0x00, 0x04, 0x02] [] (fun s => flag .z false s)
    (fun t => memGet t.mem 0x00400 == 0x02) = true := by decide

/-- T49 of 95_test_vectors.md part 2. -/
theorem test_run_xchg : runs 0xF7000 [0x7B, 0x16] [(0x00400, 0x22), (0x00401, 0x22)]
    (fun s => (s.setDreg16 .d1 0x1111).setAreg .a0 0x0400)
    (fun t => memGet t.mem 0x00400 == 0x11 && memGet t.mem 0x00401 == 0x11 &&
      t.dreg16 .d1 == 0x2222) = true := by decide

/-- B1 of 95_test_vectors.md part 2, its bit address raised by 2000h so that the byte is in RAM. -/
theorem test_run_bsetG : runs 0xF7000 [0x7E, 0x9F, 0x52, 0x20] [(0x0040A, 0x00)] id
    (fun t => memGet t.mem 0x0040A == 0x04) = true := by decide

/-- B3 of 95_test_vectors.md part 2. -/
theorem test_run_bclrG : runs 0xF7000 [0x7E, 0x80, 0x03] [] (fun s => s.setDreg16 .d0 0xFFFF)
    (fun t => t.dreg16 .d0 == 0xFFF7) = true := by decide

/-- B9 of 95_test_vectors.md part 2. -/
theorem test_run_btstS : runs 0xF7000 [0x5D, 0x01] [(0x00401, 0x20)] (fun s => { s with sb := 0x0400 })
    (fun t => t.flg.z == false && t.flg.c == true) = true := by decide

/-- B12 of 95_test_vectors.md part 2. -/
theorem test_run_btstc : runs 0xF7000 [0x7E, 0x00, 0x00] [] (fun s => s.setDreg16 .d0 0x0001)
    (fun t => t.flg.z == false && t.flg.c == true && t.dreg16 .d0 == 0x0000) = true := by decide

/-- B16 of 95_test_vectors.md part 2. -/
theorem test_run_bnand : runs 0xF7000 [0x7E, 0x50, 0x00] [] (fun s => (flag .c true s).setDreg16 .d0 0x0000)
    (fun t => t.flg.c == true) = true := by decide

/-- B24 of 95_test_vectors.md part 2. -/
theorem test_run_bmcnd : runs 0xF7000 [0x7E, 0x2A, 0x13, 0x03] [(0x00402, 0x00)]
    (fun s => { (flag .s true s) with sb := 0x0400 }) (fun t => memGet t.mem 0x00402 == 0x08) = true := by decide

/-- B26 of 95_test_vectors.md part 2. -/
theorem test_run_bmcndC : runs 0xF7000 [0x7D, 0xD2] [] (fun s => flag .c false (s.setFlg (s.flg.put .z true)))
    (fun t => t.flg.c == true) = true := by decide

/-- S1 of 95_test_vectors.md part 2. -/
theorem test_run_rolc : runs 0xF7000 [0x76, 0xA0] [] (fun s => (flag .c true s).setDreg8 .d0 0x80)
    (fun t => t.dreg8 .d0 == 0x01 && t.flg.c == true && t.flg.s == false && t.flg.z == false) = true := by decide

/-- S3 of 95_test_vectors.md part 2. -/
theorem test_run_rorc : runs 0xF7000 [0x77, 0xB0] [] (fun s => (flag .c false s).setDreg16 .d0 0x0001)
    (fun t => t.dreg16 .d0 == 0x0000 && t.flg.c == true && t.flg.s == false && t.flg.z == true) = true := by decide

/-- S5 of 95_test_vectors.md part 2. -/
theorem test_run_rotImm : runs 0xF7000 [0xE0, 0x00] [] (fun s => s.setDreg8 .d0 0x80)
    (fun t => t.dreg8 .d0 == 0x01 && t.flg.c == true && t.flg.s == false && t.flg.z == false) = true := by decide

/-- S13 of 95_test_vectors.md part 2. -/
theorem test_run_shaImm : runs 0xF7000 [0xF0, 0x00] [] (fun s => s.setDreg8 .d0 0x40)
    (fun t => t.dreg8 .d0 == 0x80 && t.flg.c == false && t.flg.s == true && t.flg.z == false &&
      t.flg.o == true) = true := by decide

/-- S25 of 95_test_vectors.md part 2. -/
theorem test_run_shaR1H : runs 0xF7000 [0x75, 0xF0] [] (fun s => (s.setDreg8 .d3 0x10).setDreg16 .d0 0x0001)
    (fun t => t.dreg16 .d0 == 0x0000 && t.flg.c == true && t.flg.z == true) = true := by decide

/-- S27 of 95_test_vectors.md part 2. -/
theorem test_run_shaLImm : runs 0xF7000 [0xEB, 0xA8] [] (fun s => (s.setDreg16 .d2 0x8000).setDreg16 .d0 0x0000)
    (fun t => t.dreg16 .d2 == 0xC000 && t.dreg16 .d0 == 0x0000 && t.flg.s == true) = true := by decide

/-- S29 of 95_test_vectors.md part 2. -/
theorem test_run_shlImm : runs 0xF7000 [0xE8, 0x00] [] (fun s => s.setDreg8 .d0 0x80)
    (fun t => t.dreg8 .d0 == 0x00 && t.flg.c == true && t.flg.z == true && t.flg.s == false) = true := by decide

/-- S38 of 95_test_vectors.md part 2. -/
theorem test_run_shlLImm : runs 0xF7000 [0xEB, 0x93] [] (fun s => (s.setDreg16 .d3 0x1234).setDreg16 .d1 0x5678)
    (fun t => t.dreg16 .d3 == 0x2345 && t.dreg16 .d1 == 0x6780 && t.flg.s == false) = true := by decide

/-- A43 of 95_test_vectors.md part 2. -/
theorem test_run_abs : runs 0xF7000 [0x76, 0xF0] [] (fun s => s.setDreg8 .d0 0xFE)
    (fun t => t.flg.o == false && t.flg.s == false && t.flg.z == false && t.dreg8 .d0 == 0x02) = true := by decide

/-- A16 of 95_test_vectors.md part 2. -/
theorem test_run_adcImm : runs 0xF7000 [0x76, 0x60, 0x00] [] (fun s => (flag .c true s).setDreg8 .d0 0xFF)
    (fun t => t.flg.o == false && t.flg.s == false && t.flg.z == true && t.flg.c == true &&
      t.dreg8 .d0 == 0x00) = true := by decide

/-- A19 of 95_test_vectors.md part 2. -/
theorem test_run_adcf : runs 0xF7000 [0x76, 0xE0] [] (fun s => (flag .c true s).setDreg8 .d0 0x7F)
    (fun t => t.flg.o == true && t.flg.s == true && t.flg.z == false && t.flg.c == false &&
      t.dreg8 .d0 == 0x80) = true := by decide

/-- A4 of 95_test_vectors.md part 2. -/
theorem test_run_addGSrc : runs 0xF7000 [0xA1, 0x10] [] (fun s => (s.setDreg16 .d0 0x7FFF).setDreg16 .d1 0x0001)
    (fun t => t.dreg16 .d0 == 0x8000 && t.flg.o == true && t.flg.s == true && t.flg.z == false &&
      t.flg.c == false) = true := by decide

/-- A7 of 95_test_vectors.md part 2. -/
theorem test_run_addQ : runs 0xF7000 [0xC9, 0xF0] [] (fun s => s.setDreg16 .d0 0x0000)
    (fun t => t.dreg16 .d0 == 0xFFFF && t.flg.o == false && t.flg.s == true && t.flg.z == false &&
      t.flg.c == false) = true := by decide

/-- A12 of 95_test_vectors.md part 2. -/
theorem test_run_addGSp : runs 0xF7000 [0x7D, 0xEB, 0x04, 0x00] [] (fun s => { (flag .u false s) with isp := 0x0FFC })
    (fun t => t.isp == 0x1000 && t.flg.o == false && t.flg.s == false && t.flg.z == false &&
      t.flg.c == false) = true := by decide

/-- A34 of 95_test_vectors.md part 2. -/
theorem test_run_cmpQ : runs 0xF7000 [0xD1, 0xD0] [] (fun s => s.setDreg16 .d0 0x0005)
    (fun t => t.flg.o == false && t.flg.s == false && t.flg.z == false && t.flg.c == false) = true := by decide

/-- A47 of 95_test_vectors.md part 2. -/
theorem test_run_decB : runs 0xF7000 [0xAC] [] (fun s => s.setDreg8 .d0 0x00)
    (fun t => t.flg.s == true && t.flg.z == false && t.dreg8 .d0 == 0xFF) = true := by decide

/-- A50 of 95_test_vectors.md part 2. -/
theorem test_run_extsB : runs 0xF7000 [0x7C, 0x60] [] (fun s => s.setDreg16 .d0 0x1280)
    (fun t => t.dreg16 .d0 == 0xFF80 && t.flg.s == true && t.flg.z == false) = true := by decide

/-- A53 of 95_test_vectors.md part 2. -/
theorem test_run_extsW : runs 0xF7000 [0x7C, 0xF3] [] (fun s => (s.setDreg16 .d0 0x8000).setDreg16 .d2 0x1234)
    (fun t => t.dreg16 .d2 == 0xFFFF) = true := by decide

/-- A48 of 95_test_vectors.md part 2. -/
theorem test_run_incW : runs 0xF7000 [0xB2] [] (fun s => s.setAreg .a0 0xFFFF)
    (fun t => t.flg.s == false && t.flg.z == true && t.areg .a0 == 0x0000) = true := by decide

/-- A39 of 95_test_vectors.md part 2. -/
theorem test_run_neg : runs 0xF7000 [0x74, 0x50] [] (fun s => s.setDreg8 .d0 0x00)
    (fun t => t.flg.o == false && t.flg.s == false && t.flg.z == true && t.flg.c == true &&
      t.dreg8 .d0 == 0x00) = true := by decide

/-- A28 of 95_test_vectors.md part 2. -/
theorem test_run_sbbImm : runs 0xF7000 [0x76, 0x70, 0x02] [] (fun s => (flag .c false s).setDreg8 .d0 0x05)
    (fun t => t.flg.o == false && t.flg.s == false && t.flg.z == false && t.flg.c == true &&
      t.dreg8 .d0 == 0x02) = true := by decide

/-- A27 of 95_test_vectors.md part 2. -/
theorem test_run_subGSrc : runs 0xF7000 [0xA8, 0x04] [] (fun s => (s.setDreg8 .d0 0x01).setAreg .a0 0x0000)
    (fun t => t.areg .a0 == 0xFFFF && t.flg.o == false && t.flg.s == true && t.flg.z == false &&
      t.flg.c == false) = true := by decide

/-- D1 of 95_test_vectors.md part 2. -/
theorem test_run_daddBImm : runs 0xF7000 [0x7C, 0xEC, 0x03] [] (fun s => s.setDreg8 .d0 0x09)
    (fun t => t.flg.s == false && t.flg.z == false && t.flg.c == false && t.dreg8 .d0 == 0x12) = true := by decide

/-- D16 of 95_test_vectors.md part 2. -/
theorem test_run_dsbbWReg : runs 0xF7000 [0x7D, 0xE7] []
    (fun s => ((flag .c false s).setDreg16 .d0 0x0000).setDreg16 .d1 0x0000)
    (fun t => t.flg.s == true && t.flg.z == false && t.flg.c == false && t.dreg16 .d0 == 0x9999) = true := by decide

/-- D7 of 95_test_vectors.md part 2. -/
theorem test_run_dadcWImm : runs 0xF7000 [0x7D, 0xEE, 0x01, 0x00] [] (fun s => (flag .c false s).setDreg16 .d0 0x9999)
    (fun t => t.flg.s == false && t.flg.z == true && t.flg.c == true && t.dreg16 .d0 == 0x0000) = true := by decide

/-- D11 of 95_test_vectors.md part 2. -/
theorem test_run_dsubWReg : runs 0xF7000 [0x7D, 0xE5] [] (fun s => (s.setDreg16 .d0 0x1000).setDreg16 .d1 0x0001)
    (fun t => t.flg.s == false && t.flg.z == false && t.flg.c == true && t.dreg16 .d0 == 0x0999) = true := by decide

/-- V5 of 95_test_vectors.md part 2. -/
theorem test_run_divImm : runs 0xF7000 [0x7C, 0xE1, 0x01] [] (fun s => s.setDreg16 .d0 0x0080)
    (fun t => t.flg.o == true) = true := by decide

/-- V17 of 95_test_vectors.md part 2. -/
theorem test_run_divuSrc : runs 0xF7000 [0x77, 0xC1] [] (fun s => (s.setPair .r2r0 0x0001FFFE).setDreg16 .d1 0x0002)
    (fun t => t.dreg16 .d0 == 0xFFFF && t.dreg16 .d2 == 0x0000 && t.flg.o == false) = true := by decide

/-- V11 of 95_test_vectors.md part 2. -/
theorem test_run_divxImm : runs 0xF7000 [0x7C, 0xE3, 0x04] [] (fun s => s.setDreg16 .d0 0xFFF7)
    (fun t => t.dreg8 .d0 == 0xFD && t.dreg8 .d1 == 0x03 && t.flg.o == false) = true := by decide

/-- M3 of 95_test_vectors.md part 2. -/
theorem test_run_mulImm : runs 0xF7000 [0x7C, 0x50, 0x80] [] (fun s => s.setDreg8 .d0 0x80)
    (fun t => t.dreg16 .d0 == 0x4000) = true := by decide

/-- M2 of 95_test_vectors.md part 2. -/
theorem test_run_muluSrc : runs 0xF7000 [0x70, 0x02] [] (fun s => (s.setDreg8 .d0 0xFE).setDreg8 .d2 0x03)
    (fun t => t.dreg16 .d1 == 0x02FA) = true := by decide

/-- L3 of 95_test_vectors.md part 2. -/
theorem test_run_andBSImm : runs 0xF7000 [0x94, 0x03] [] (fun s => s.setDreg8 .d0 0xFC)
    (fun t => t.dreg8 .d0 == 0x00 && t.flg.s == false && t.flg.z == true) = true := by decide

/-- L9 of 95_test_vectors.md part 2. -/
theorem test_run_xorSrc : runs 0xF7000 [0x89, 0x45] [] (fun s => (s.setAreg .a0 0xFFFF).setAreg .a1 0xFFFF)
    (fun t => t.areg .a1 == 0x0000 && t.flg.s == false && t.flg.z == true) = true := by decide

/-- L13 of 95_test_vectors.md part 2. -/
theorem test_run_notG : runs 0xF7000 [0x75, 0x75] [] (fun s => s.setAreg .a1 0xFFFF)
    (fun t => t.areg .a1 == 0x0000 && t.flg.s == false && t.flg.z == true) = true := by decide

/-- J9 of 95_test_vectors.md part 2. -/
theorem test_run_jcnd8 : runs 0xF0000 [0x6A, 0x10] [] (fun s => flag .z true s)
    (fun t => t.pc == 0xF0011) = true := by decide

/-- J14 of 95_test_vectors.md part 2. -/
theorem test_run_jcnd16 : runs 0xF0000 [0x7D, 0xCA, 0x05] [] (fun s => flag .o true (s.setFlg (s.flg.put .s true)))
    (fun t => t.pc == 0xF0007) = true := by decide

/-- J1 of 95_test_vectors.md part 2. -/
theorem test_run_jmpS : runs 0xF0000 [0x64] [] id (fun t => t.pc == 0xF0006) = true := by decide

/-- J6 of 95_test_vectors.md part 2. -/
theorem test_run_jmpW : runs 0xF0000 [0xF4, 0x00, 0x10] [] id (fun t => t.pc == 0xF1001) = true := by decide

/-- J20 of 95_test_vectors.md part 2. -/
theorem test_run_jmpiW : runs 0xF0000 [0x7D, 0x20] [] (fun s => s.setDreg16 .d0 0xFFF0)
    (fun t => t.pc == 0xEFFF0) = true := by decide

/-- J22 of 95_test_vectors.md part 2. -/
theorem test_run_jmpiA : runs 0xF0000 [0x7D, 0x04] [] (fun s => (s.setAreg .a1 0x000F).setAreg .a0 0x8000)
    (fun t => t.pc == 0xF8000) = true := by decide

/-- J25 of 95_test_vectors.md part 2. -/
theorem test_run_jmps : runs 0xF0000 [0xEE, 0x14] [(0xFFFD6, 0x34), (0xFFFD7, 0x12)] id
    (fun t => t.pc == 0xF1234) = true := by decide

/-- J28 of 95_test_vectors.md part 2. -/
theorem test_run_jsrA : runs 0xF0000 [0xFD, 0x00, 0x80, 0x0F] [] (fun s => { (flag .u false s) with isp := 0x0800 })
    (fun t => memGet t.mem 0x007FF == 0x0F && memGet t.mem 0x007FD == 0x04 && memGet t.mem 0x007FE == 0x00 &&
      t.isp == 0x07FD && t.pc == 0xF8000) = true := by decide

/-- J29 of 95_test_vectors.md part 2. -/
theorem test_run_jsriW : runs 0xF0000 [0x7D, 0x30] [] (fun s => { (s.setDreg16 .d0 0x0100) with isp := 0x0800 })
    (fun t => memGet t.mem 0x007FD == 0x02 && memGet t.mem 0x007FE == 0x00 && memGet t.mem 0x007FF == 0x0F &&
      t.pc == 0xF0100) = true := by decide

/-- J31 of 95_test_vectors.md part 2. -/
theorem test_run_jsrs : runs 0xF0000 [0xEF, 0x12] [(0xFFFDA, 0x00), (0xFFFDB, 0x40)]
    (fun s => { s with isp := 0x0800 }) (fun t => t.pc == 0xF4000) = true := by decide

/-- J32 of 95_test_vectors.md part 2. -/
theorem test_run_rts : runs 0xF0000 [0xF3] [(0x007FD, 0x04), (0x007FE, 0x00), (0x007FF, 0x0F)]
    (fun s => { s with isp := 0x07FD }) (fun t => t.pc == 0xF0004 && t.isp == 0x0800) = true := by decide

/-- J34 of 95_test_vectors.md part 2. -/
theorem test_run_adjnz : runs 0xF0000 [0xF9, 0xF0, 0xFE] [] (fun s => s.setDreg16 .d0 0x0002)
    (fun t => t.dreg16 .d0 == 0x0001 && t.pc == 0xF0000) = true := by decide

/-- X25 of 95_test_vectors.md part 2. -/
theorem test_run_brk : runs 0xF0100 [0x00] [(0xFFFE4, 0x00), (0xFFFE5, 0x20), (0xFFFE6, 0x0F), (0xFFFE7, 0x00)]
    (fun s => { (s.setFlg (Flg.ofWord 0x00C5)) with isp := 0x0800 })
    (fun t => memGet t.mem 0x007FC == 0x01 && memGet t.mem 0x007FD == 0x01 && memGet t.mem 0x007FE == 0xC5 &&
      memGet t.mem 0x007FF == 0x0F && t.isp == 0x07FC && t.flg.toWord == 0x0005 &&
      t.pc == 0xF2000) = true := by decide

/-- X28 of 95_test_vectors.md part 2. -/
theorem test_run_into : runs 0xF0100 [0xF6] [(0xFFFE0, 0x00), (0xFFFE1, 0x21), (0xFFFE2, 0x0F), (0xFFFE3, 0x00)]
    (fun s => { (s.setFlg (Flg.ofWord 0x00A0)) with isp := 0x0800 })
    (fun t => memGet t.mem 0x007FC == 0x01 && memGet t.mem 0x007FD == 0x01 && memGet t.mem 0x007FE == 0xA0 &&
      memGet t.mem 0x007FF == 0x0F && t.flg.toWord == 0x0020 && t.pc == 0xF2100) = true := by decide

/-- X29 of 95_test_vectors.md part 2. -/
theorem test_run_und : runs 0xF0100 [0xFF] [(0xFFFDC, 0x00), (0xFFFDD, 0x22), (0xFFFDE, 0x0F), (0xFFFDF, 0x00)]
    (fun s => { (s.setFlg (Flg.ofWord 0x0000)) with isp := 0x0800 })
    (fun t => memGet t.mem 0x007FC == 0x01 && memGet t.mem 0x007FD == 0x01 && memGet t.mem 0x007FE == 0x00 &&
      memGet t.mem 0x007FF == 0x0F && t.pc == 0xF2200) = true := by decide

/-- X34 of 95_test_vectors.md part 2. -/
theorem test_run_reit : runs 0xF7000 [0xFB] [(0x007FC, 0x16), (0x007FD, 0x00), (0x007FE, 0x80), (0x007FF, 0x2F)]
    (fun s => { (flag .u false s) with isp := 0x07FC })
    (fun t => t.pc == 0xF0016 && t.flg.toWord == 0x2080 && t.isp == 0x0800) = true := by decide

/-- X6 of 95_test_vectors.md part 2. -/
theorem test_run_ldcImm : runs 0xF7000 [0xEB, 0x50, 0x00, 0x04] [] (fun s => flag .u false s)
    (fun t => t.isp == 0x0400 && t.intShadow == true) = true := by decide

/-- X10 of 95_test_vectors.md part 2. -/
theorem test_run_ldcSrc : runs 0xF7000 [0x7A, 0xE0] [] (fun s => s.setDreg16 .d0 0x0400)
    (fun t => t.sb == 0x0400) = true := by decide

/-- X13 of 95_test_vectors.md part 2. -/
theorem test_run_stcPc : runs 0xF1000 [0x7C, 0xC0] [] id
    (fun t => t.dreg16 .d0 == 0x1002 && t.dreg16 .d2 == 0x000F) = true := by decide

/-- X11 of 95_test_vectors.md part 2. -/
theorem test_run_stcDest : runs 0xF7000 [0x7B, 0xB0] [] (fun s => s.setFlg (Flg.ofWord 0x2080))
    (fun t => t.dreg16 .d0 == 0x2080) = true := by decide

/-- X15 of 95_test_vectors.md part 2. -/
theorem test_run_pushc : runs 0xF7000 [0xEB, 0x32] []
    (fun s => { (flag .u false (s.setFlg (Flg.ofWord 0x2041))) with isp := 0x0800 })
    (fun t => memGet t.mem 0x007FE == 0x41 && memGet t.mem 0x007FF == 0x20 && t.isp == 0x07FE) = true := by decide

/-- X17 of 95_test_vectors.md part 2. -/
theorem test_run_popc : runs 0xF7000 [0xEB, 0x33] [(0x007FE, 0xC0), (0x007FF, 0x00)]
    (fun s => { (flag .u false s) with isp := 0x07FE })
    (fun t => t.flg.toWord == 0x00C0 && t.isp == 0x0800 && t.intShadow == true) = true := by decide

/-- X4 of 95_test_vectors.md part 2. -/
theorem test_run_ldipl : runs 0xF7000 [0x7D, 0xA2] [] (fun s => s.setFlg (Flg.ofWord 0x0040))
    (fun t => t.flg.toWord == 0x2040) = true := by decide

/-- X19 of 95_test_vectors.md part 2. -/
theorem test_run_enter : runs 0xF7000 [0x7C, 0xF2, 0x03] []
    (fun s => { ((flag .u false s).setFb 0x1234) with isp := 0x0800 })
    (fun t => memGet t.mem 0x007FE == 0x34 && memGet t.mem 0x007FF == 0x12 && t.bank.fb == 0x07FE &&
      t.isp == 0x07FB) = true := by decide

/-- X21 of 95_test_vectors.md part 2. -/
theorem test_run_exitd : runs 0xF7000 [0x7D, 0xF2]
    [(0x00800, 0x0B), (0x00801, 0x00), (0x00802, 0x0F), (0x007FE, 0x34), (0x007FF, 0x12)] (fun s => s.setFb 0x07FE)
    (fun t => t.bank.fb == 0x1234 && t.pc == 0xF000B && t.sp == 0x0803) = true := by decide

/-- X22 of 95_test_vectors.md part 2. -/
theorem test_run_ldctx : runs 0xF7000 [0x7C, 0xF0, 0x00, 0x04, 0x00, 0x80, 0x0F]
    [(0x00400, 0x01), (0xF8002, 0x03), (0xF8003, 0x04), (0x00FFC, 0x11), (0x00FFD, 0x11), (0x00FFE, 0x22),
      (0x00FFF, 0x22)] (fun s => s.setSp 0x0FFC)
    (fun t => t.dreg16 .d0 == 0x1111 && t.dreg16 .d1 == 0x2222 && t.sp == 0x1000) = true := by decide

/-- X36 of 95_test_vectors.md part 2. -/
theorem test_run_wait : runs 0xF7000 [0x7D, 0xF3] [] (fun s => flag .i false s)
    (fun t => t.waiting == true) = true := by decide

/-! More single steps, expected values from the spec's vectors and figures. -/

/-- The manual's Figure 1.8.3: a word written at N is seen as bytes at N and N + 1 (R73). -/
theorem test_run_steAbs20 : runs 0xF7000 [0x75, 0x00, 0x00, 0x04, 0x00] [] (fun s => s.setDreg16 .d0 0x1234)
    (fun t => memGet t.mem 0x400 == 0x34 && memGet t.mem 0x401 == 0x12 && t.pc == 0xF7005) = true := by decide

/-- P4: `RMPA.W`, its last iteration. -/
theorem test_run_rmpa : runs 0xF7000 [0x7D, 0xF1]
    [(0x0400, 0xFF), (0x0401, 0xFF), (0x0410, 0x02), (0x0411, 0x00)]
    (fun s => (((flag .o true s).setDreg16 .d3 1).setAreg .a0 0x0400).setAreg .a1 0x0410)
    (fun t => t.bank.r2 == 0xFFFF && t.bank.r0 == 0xFFFE && t.bank.a0 == 0x0402 && t.bank.a1 == 0x0412 &&
      t.bank.r3 == 0 && t.flg.o == false && t.pc == 0xF7002) = true := by decide

/-- P3: the sum leaves its range; A0, A1 and R3 are not judged. -/
theorem test_run_rmpa_overflow : runs 0xF7000 [0x7C, 0xF1] [(0x0400, 0x01), (0x0410, 0x01)]
    (fun s => (((s.setDreg16 .d0 0x7FFF).setDreg16 .d3 2).setAreg .a0 0x0400).setAreg .a1 0x0410)
    (fun t => t.bank.r0 == 0x8000 && t.flg.o == true && t.pc == 0xF7002) = true := by decide

/-- G4: `SMOVB.B` with A0 = 0000h borrows from R1H. -/
theorem test_run_smovb : runs 0xF7000 [0x7C, 0xE9] [(0x10000, 0x77)]
    (fun s => ((s.setDreg8 .d3 0x01).setDreg16 .d3 1).setAreg .a1 0x0400)
    (fun t => memGet t.mem 0x400 == 0x77 && t.bank.a0 == 0xFFFF && t.dreg8 .d3 == 0 && t.bank.a1 == 0x03FF &&
      t.bank.r3 == 0 && t.pc == 0xF7002) = true := by decide

/-- G1: the first of four iterations of `SMOVF.B`; `pc` stays. -/
theorem test_run_smovf : runs 0xF7000 [0x7C, 0xE8] [(0xF0100, 0x11)]
    (fun s => (((s.setDreg8 .d3 0x0F).setDreg16 .d3 4).setAreg .a0 0x0100).setAreg .a1 0x0400)
    (fun t => memGet t.mem 0x400 == 0x11 && t.bank.a0 == 0x0101 && t.bank.a1 == 0x0401 && t.bank.r3 == 3 &&
      t.pc == 0xF7000 && t.resume == some (.smovf .b)) = true := by decide

/-- G6: the first of two iterations of `SSTR.W`. -/
theorem test_run_sstr : runs 0xF7000 [0x7D, 0xEA] []
    (fun s => ((s.setDreg16 .d0 0xBEEF).setAreg .a1 0x0400).setDreg16 .d3 2)
    (fun t => memGet t.mem 0x400 == 0xEF && memGet t.mem 0x401 == 0xBE && t.bank.a1 == 0x0402 &&
      t.bank.r3 == 1) = true := by decide

/-- The register word lies at ascending addresses, R0 first (T33). -/
theorem test_run_popm : runs 0xF7000 [0xED, 0x03]
    [(0x07FC, 0x11), (0x07FD, 0x11), (0x07FE, 0x22), (0x07FF, 0x22)] (fun s => { s with isp := 0x07FC })
    (fun t => t.dreg16 .d0 == 0x1111 && t.dreg16 .d1 == 0x2222 && t.isp == 0x0800) = true := by decide

/-- X23: `STCTX` with the table of X22. -/
theorem test_run_stctx : runs 0xF7000 [0x7D, 0xF0, 0x00, 0x04, 0x00, 0x80, 0x0F]
    [(0x0400, 0x01), (0xF8002, 0x03), (0xF8003, 0x04)]
    (fun s => { ((s.setDreg16 .d0 0x1111).setDreg16 .d1 0x2222) with isp := 0x1000 })
    (fun t => memGet t.mem 0xFFE == 0x22 && memGet t.mem 0xFFC == 0x11 && t.isp == 0x0FFC) = true := by decide

/-- S11: a count of 0 changes nothing. -/
theorem test_run_rotR1H : runs 0xF7000 [0x75, 0x62] [] (fun s => flag .c true (s.setDreg16 .d2 0x8001))
    (fun t => t.bank.r2 == 0x8001 && t.flg.c == true && t.flg.z == false && t.flg.s == false) = true := by decide

/-- S37: sixteen positions to the right. -/
theorem test_run_shlR1H : runs 0xF7000 [0x75, 0xE0] [] (fun s => (s.setDreg16 .d0 0x8000).setDreg8 .d3 0xF0)
    (fun t => t.bank.r0 == 0 && t.flg.c == true && t.flg.z == true) = true := by decide

/-- X32: `INT #32` keeps U, pushes on USP and goes through entry 32. -/
theorem test_run_int : runs 0xF0100 [0xEB, 0xE0] [(0xFFD80, 0x00), (0xFFD81, 0x23), (0xFFD82, 0x0F)]
    (fun s => { flag .u true s with intb := 0xFFD00 })
    (fun t => t.usp == 0x077C && t.isp == 0x0900 && t.flg.u == true && t.pc == 0xF2300 &&
      memGet t.mem 0x77C == 0x02 && memGet t.mem 0x77E == 0x80 && memGet t.mem 0x77F == 0x0F) = true := by decide

/-- X9: the upper half of INTB has 4 bits. -/
theorem test_run_ldc_intbh : runs 0xF7000 [0xEB, 0x20, 0xFF, 0xFF] [] (fun s => { s with intb := 0x01234 })
    (fun t => t.intb == 0xF1234 && t.intShadow == true) = true := by decide

/-- X37: a peripheral interrupt of level 3 with number 21. -/
theorem test_accept_peripheral : boundary [(0xFFD54, 0x00), (0xFFD55, 0x02), (0xFFD56, 0x0F)]
    (fun s => { flag .i true s with
      pc := 0xF0010, isp := 0x0800, intb := 0xFFD00
      sources := [{ num := 21, icr := 0x55, ir := true, ilvl := 3, old := [] }] })
    (fun t => t.isp == 0x07FC && t.pc == 0xF0200 && t.flg.i == false && t.flg.ipl == 3 &&
      memGet t.mem 0x7FC == 0x10 && memGet t.mem 0x7FD == 0x00 && memGet t.mem 0x7FE == 0x40 &&
      memGet t.mem 0x7FF == 0x0F && (t.sources.map Source.ir) == [false]) = true := by decide

/-- A level equal to IPL is not accepted (R553): the instruction runs. -/
theorem test_level_equal_ipl : boundary [(0xF0010, 0x04)]
    (fun s => { flag .i true (s.setFlg { s.flg with ipl := 3 }) with
      pc := 0xF0010, sources := [{ num := 21, icr := 0x55, ir := true, ilvl := 3, old := [] }] })
    (fun t => t.pc == 0xF0011) = true := by decide

/-- NMI comes before the watchdog timer and sets IPL to 7 (R546, R570). -/
theorem test_accept_nmi : boundary [(0xFFFF9, 0x10), (0xFFFFA, 0x0F)]
    (fun s => { s with pc := 0xF0010, isp := 0x0800, nmiReq := true, wdtReq := true })
    (fun t => t.pc == 0xF1000 && t.flg.ipl == 7 && t.nmiReq == false && t.wdtReq == true) = true := by decide

/-- The boundary before the first instruction after reset is shadowed, NMI included (R558). -/
theorem test_reset_shadow : runs 0xF7000 [0x04] [] (fun s => { s with nmiReq := true })
    (fun t => t.pc == 0xF7001 && t.nmiReq == true && t.intShadow == false) = true := by decide

/-- An instruction that starts with D = 1 requests a single step (R549). -/
theorem test_single_step : runs 0xF7000 [0x04] [] (flag .d true) (fun t => t.stepReq) = true := by decide

/-- An address match that loses to NMI stays pending (R556, R570). -/
theorem test_match_loses : boundary [(0xFFFF9, 0x10), (0xFFFFA, 0x0F)]
    (fun s => { s with
      pc := 0xF0010, isp := 0x0800, nmiReq := true, matchRegs := [⟨0xF0010, true⟩]
      product := { Product.default with addressMatch := true } })
    (fun t => t.pc == 0xF1000 && t.matchReq && t.nmiReq == false) = true := by decide

/-- An address match in a shadow stays pending (R556, R558). -/
theorem test_match_shadowed : runs 0xF7000 [0x04] []
    (fun s => { s with matchRegs := [⟨0xF7000, true⟩], product := { Product.default with addressMatch := true } })
    (fun t => t.pc == 0xF7001 && t.matchReq) = true := by decide

/-- R615, example 3: after `POPC FLG` turns I on, the store before it is no longer judged by its old values. -/
theorem test_popc_ends_windows : runs 0xF7000 [0xEB, 0x33] [(0x0900, 0x40)]
    (fun s => { s with sources := [{ num := 21, icr := 0x55, ir := false, ilvl := 0, old := [⟨3, true, 3⟩] }] })
    (fun t => t.flg.i && t.sources.map Source.old == [[]]) = true := by decide

/-- R615, example 2 with `SMOVF.B` after `FSET I`: between its iterations the window of the store is over. -/
theorem test_window_lapses : runs 0xF7000 [0x7C, 0xE8] [(0xF0100, 0x11)]
    (fun s => { (((s.setDreg8 .d3 0x0F).setDreg16 .d3 4).setAreg .a0 0x0100).setAreg .a1 0x0400 with
      sources := [{ num := 21, icr := 0x55, ir := false, ilvl := 0, old := [⟨3, true, 1⟩] }] })
    (fun t => t.resume == some (.smovf .b) && t.sources.map Source.old == [[]]) = true := by decide

/-- A store to an interrupt control register opens a window to the end of the second following instruction (R615), and
enters the trace (R631). -/
theorem test_store_icr : runs 0xF7000 [0xC7, 0x05, 0x55, 0x00] []
    (fun s => { s with sources := [{ num := 21, icr := 0x55, ir := false, ilvl := 3, old := [] }] })
    (fun t => t.sources.map Source.old == [[⟨3, false, 3⟩]] && t.sources.map Source.ilvl == [5] &&
      t.sfrTrace == [⟨0x55, 1, 5, .write⟩]) = true := by decide

/-- A word that ends above the SFR area is one access of it; a byte above it is none (R71, R631). -/
theorem test_trace_edge :
    ((readWord 0x003FF State.reset).2.sfrTrace.map fun e => (e.addr, e.width, e.dir)) = [(0x003FF, 2, .read)] ∧
    (readByte 0x00400 State.reset).2.sfrTrace = [] := ⟨rfl, rfl⟩

/-- A store to ROM stops by name (D12). -/
theorem test_rom_write : exec (.steAbs20 .b (.data .d0) 0xF0000) State.reset = .fault (.romWrite 0xF0000) := rfl

/-! Well-formedness: each check refuses a term. -/

/-- R102: `.B` with two address registers. -/
theorem test_refused_both_addr : refuses (.movGSrc .b (.addr .a0) (.addr .a1)) = true := by decide
/-- D20: `.B` with an address register on a page that does not describe it. -/
theorem test_refused_byte_addr : refuses (.neg .b (.addr .a0)) = true := by decide
/-- R301: R1H as the destination of a shift by R1H. -/
theorem test_refused_count_b : refuses (.shlR1H .b (.data .d3)) = true := by decide
/-- R301: R1 as the destination of a shift by R1H. -/
theorem test_refused_count_w : refuses (.rotR1H .w (.data .d1)) = true := by decide
/-- R405: R1H as the destination of `MUL.B`. -/
theorem test_refused_mul_b : refuses (.mulSrc .b (.data .d0) (.data .d3)) = true := by decide
/-- R405: A1 as the destination of `MULU.W`. -/
theorem test_refused_mul_w : refuses (.muluImm (.w 1) (.addr .a1)) = true := by decide
/-- R349: R0H as the destination of `EXTS.B`. -/
theorem test_refused_exts : refuses (.extsB (.data .d1)) = true := by decide
/-- R215: `MOVA [A0],R0`. -/
theorem test_refused_mova : refuses (.mova (.ind .a0) .r0) = true := by decide
/-- R218: R0L as the destination of `MOVDir R0L,dest`. -/
theorem test_refused_movDir : refuses (.movDirFromR0L .hh (.data .d0)) = true := by decide
/-- R218: A0 as the source of `MOVDir`. -/
theorem test_refused_movDir_addr : refuses (.movDirToR0L .hh (.addr .a0)) = true := by decide
/-- R446: `JLE` in the one-byte form. -/
theorem test_refused_jcnd8 : refuses (.jcnd8 .le 0) = true := by decide
/-- R447: `JEQ` in the two-byte form. -/
theorem test_refused_jcnd16 : refuses (.jcnd16 .eq 0) = true := by decide
/-- R85: special page number 17. -/
theorem test_refused_special_page : refuses (.jmps 17) = true := by decide

/-! Witnesses: for every statement with hypotheses, states and operands that meet them. -/

/-- Registers of a state for the witnesses. -/
def sampleBank : Bank :=
  { r0 := 0x1234, r1 := 0x0845, r2 := 0x0000, r3 := 0x0002, a0 := 0x0500, a1 := 0x0600, fb := 0x0700 }

/-- A state for the witnesses: a program at F7000h, the stacks in RAM. -/
def sample : State :=
  { State.reset with
    bank0 := sampleBank, sb := 0x0480, usp := 0x0780, isp := 0x0900, pc := 0xF7000, intShadow := false }

/-- A peripheral source. -/
def source (num : BitVec 5) (ilvl : BitVec 3) : Source :=
  { num := num, icr := 0x55#20, ir := true, ilvl := ilvl, old := [] }

/-- The sample state with a register bank. -/
def withR1 (v : Word) : State := { sample with bank0 := { sampleBank with r1 := v } }

/-- The instructions complete in the state as far as well-formedness and stores go. -/
def allowsAll (s : State) (l : List Instr) : Bool := l.all fun i => i.wellFormed && (storedTo i s).all s.writable

theorem allows_of {s : State} {l : List Instr} (h : allowsAll s l = true) : ∀ i ∈ l, s.allows i := by
  intro i hi
  have := List.all_eq_true.mp h i hi
  rw [Bool.and_eq_true] at this
  exact ⟨this.1, fun a ha => List.all_eq_true.mp this.2 a ha⟩

theorem plain_of {s : State} {l : List Addr} (h : (l.all fun a => decide (s.plain a)) = true) : ∀ a ∈ l, s.plain a :=
  fun a ha => of_decide_eq_true (List.all_eq_true.mp h a ha)

theorem writable_of {s : State} {l : List Addr} (h : l.all s.writable = true) : ∀ a ∈ l, s.writable a = true :=
  fun a ha => List.all_eq_true.mp h a ha

/-- The state an instruction leaves. -/
def after (i : Instr) (s : State) : State :=
  match exec i s with
  | .next t => t
  | _ => s

theorem witness_DecodeEncode : (Instr.steDsp20 .w (.mem (.rel16 .a1 0xFFFF)) 0xFFFFF).wellFormed = true ∧
    (Instr.steDsp20 .w (.mem (.rel16 .a1 0xFFFF)) 0xFFFFF).isAlias = false := by decide

theorem witness_DecodeSound : decode [0xFF, 0x00] = .ok (.und, [0x00]) := rfl

theorem witness_AliasWords : (Instr.sbjnz .w 0xF (.data .d0) 0xFE).wellFormed = true := by decide

theorem witness_UnassignedRefused :
    (State.reset.withFetchWord 8 0x7F).ready ∧
      (State.reset.withFetchWord 8 0x7F).code = [0x7F, 0, 0, 0, 0, 0, 0, 0] ∧ unassignedCode 0x7F 0 = true :=
  ⟨⟨rfl, rfl, rfl, .inl rfl⟩, by decide, by decide⟩

theorem witness_UnassignedRefused_reserved :
    (State.reset.withFetchWord 16 0x7C43).ready ∧
      (State.reset.withFetchWord 16 0x7C43).code = [0x7C, 0x43, 0, 0, 0, 0, 0, 0] ∧
      decode (State.reset.withFetchWord 16 0x7C43).code = .error .reserved ∧ unassignedCode 0x7C 0x43 = false :=
  ⟨⟨rfl, rfl, rfl, .inl rfl⟩, by decide, rfl, by decide⟩

theorem witness_StepRuns : (sample.withFetchWord 8 0x04).ready ∧
    decode (sample.withFetchWord 8 0x04).code = .ok (.nop, [0, 0, 0, 0, 0, 0, 0]) ∧
    ∃ t, exec .nop (sample.withFetchWord 8 0x04).fetched.started = .next t :=
  ⟨⟨rfl, rfl, rfl, .inl rfl⟩, rfl, _, rfl⟩

theorem witness_StepRuns_fault :
    ({ sample.withFetchWord 16 0x7420 with bank0 := { sampleBank with a1 := 0x000F } }).ready ∧
    decode ({ sample.withFetchWord 16 0x7420 with bank0 := { sampleBank with a1 := 0x000F } } : State).code =
      .ok (.steA1A0 .b (.data .d0), [0, 0, 0, 0, 0, 0]) ∧
    exec (.steA1A0 .b (.data .d0))
      ({ sample.withFetchWord 16 0x7420 with bank0 := { sampleBank with a1 := 0x000F } } : State).fetched.started =
      .fault (.romWrite 0xF0500) :=
  ⟨⟨rfl, rfl, rfl, .inl rfl⟩, rfl, rfl⟩

/-- An instruction in progress, stale queue bytes and open windows. -/
def busy : State :=
  { sample with
    resume := some (.sstr .b), queue := [(0xF7002, 0x12#8), (0xF700B, 0x34#8)], iplOld := [(5#3, 3)]
    mem := [(0x600, 1#8)]
    sources := [{ num := 21, icr := 0x55, ir := false, ilvl := 3, old := [⟨4#3, false, 4⟩] }] }

theorem witness_StepRuns_progress : ({ sample with resume := some (.sstr .b) }).resume = some (.sstr .b) ∧
    (chooseHw { sample with resume := some (.sstr .b) }).1 = none ∧
    ∃ t, exec (.sstr .b) { sample with resume := none, prevI := none, draws := 0 } = .next t :=
  ⟨rfl, by decide, _, rfl⟩

/-- The same with its store in the hole of a small product. -/
def smallRam : State := { sample with product := { Product.default with ramTop := 0x005FF } }

theorem witness_StepRuns_progress_fault : ({ smallRam with resume := some (.sstr .b) }).resume = some (.sstr .b) ∧
    (chooseHw { smallRam with resume := some (.sstr .b) }).1 = none ∧
    exec (.sstr .b) { smallRam with resume := none, prevI := none, draws := 0 } = .fault (.unmappedWrite 0x00600) :=
  ⟨rfl, by decide, rfl⟩

theorem witness_FetchBytes : sample.isHole (sample.pc + BitVec.ofNat 20 7) = false := by decide

theorem witness_StepConsistent : Consistent busy := by
  refine ⟨by decide, ?_, ?_, ?_, ?_⟩
  · intro i h
    simp only [busy, Option.some.injEq] at h
    subst h
    exact ⟨rfl, rfl⟩
  · simp [busy, sample]
  · simp [busy, Config.iplWindow]
  · simp [busy, sample, State.reset, Product.default, Product.storeWindow]

theorem witness_StepConsistent_step : ∃ t, Consistent { sample with pc := 0x00400#20 } ∧
    step { sample with pc := 0x00400#20 } = .next t :=
  ⟨_, ⟨by decide, by simp [sample, State.reset], by simp [sample, State.reset], by simp [sample, State.reset],
    by simp [sample, State.reset]⟩, rfl⟩

theorem witness_EnvironmentAgent : Consistent busy ∧ ({ sample with sources := [source 21 3] } : State).sources[0]? =
    some (source 21 3) ∧ (source 21 3).ir = true := ⟨witness_StepConsistent, rfl, rfl⟩

/-- Both ends of the SFR area and the first address above it; a product with DBC; an address-match register. -/
theorem witness_EnvironmentAgent_actions : sample.isSfr 0x00000 = true ∧ sample.isSfr 0x003FF = true ∧
    sample.isSfr 0x00400 = false ∧ sample.product.dbc = false ∧
    ({ sample with product := { Product.default with dbc := true } }).product.dbc = true ∧
    0 < ({ sample with matchRegs := [⟨0xF7000, true⟩] }).matchRegs.length := by decide

theorem witness_Outcomes : (Instr.jmps 17).wellFormed = false ∧ sample.allows .nop ∧
    (Instr.steAbs20 .b (.data .d0) 0xF0000).wellFormed = true ∧
    ¬ sample.allows (.steAbs20 .b (.data .d0) 0xF0000) :=
  ⟨rfl, ⟨rfl, by simp [storedTo]⟩, rfl, fun h => absurd (h.2 0xF0000 (by simp [storedTo, sizeAt])) (by decide)⟩

theorem witness_MemoryFrame : (∃ t, exec (.pushG .w (.data .d0)) sample = .next t) ∧
    (0x00900#20) ∉ storedTo (.pushG .w (.data .d0)) sample := ⟨⟨_, rfl⟩, by decide⟩

theorem witness_RegisterFrame : (∃ t, exec (.movGSrc .b (.data .d1) (.data .d0)) sample = .next t) ∧
    RegName.r0h ∉ changedRegs (.movGSrc .b (.data .d1) (.data .d0)) sample := ⟨⟨_, rfl⟩, by decide⟩

theorem witness_FlagFrame : (∃ t, exec (.incW .a0) sample = .next t) ∧
    FlagName.c ∉ changedFlags (.incW .a0) sample ∧ changesIpl (.incW .a0) = false := ⟨⟨_, rfl⟩, by decide, rfl⟩

theorem witness_NextPc : (∃ t, exec (.enter 4) sample = .next t) ∧ writesPc (.enter 4) = false := ⟨⟨_, rfl⟩, rfl⟩

theorem witness_EnvironmentFrame :
    (∃ t, exec (.movGImm (.b 7) (.mem (.abs16 0x56))) { sample with sources := [source 21 3] } = .next t) ∧
    (source 21 3).icr ∉ storedTo (.movGImm (.b 7) (.mem (.abs16 0x56))) { sample with sources := [source 21 3] } ∧
    sample.isSfr (source 21 3).icr = true ∧ sample.isSfr 0#20 = true ∧
    (after (.movGImm (.b 7) (.mem (.abs16 0x56))) { sample with sources := [source 21 3] }).sfrTrace =
      [⟨0x56, 1, 7, .write⟩] ∧
    (after (.movGImm (.b 7) (.mem (.abs16 0x56))) { sample with sources := [source 21 3] }).sources = [source 21 3] :=
  ⟨⟨_, rfl⟩, by decide, by decide, by decide, by decide, by decide⟩

theorem witness_BoundaryAfter : ∀ w ∈ [0x04, 0xEB64, 0xEB66, 0xEB20],
    (sample.withFetchWord (if w < 256 then 8 else 16) w).ready ∧
    (match decode (sample.withFetchWord (if w < 256 then 8 else 16) w).code with
      | .ok _ => true
      | .error _ => w == 0xEB66) = true := by
  intro w hw
  refine ⟨⟨rfl, rfl, rfl, .inl rfl⟩, ?_⟩
  simp only [List.mem_cons, List.not_mem_nil, or_false] at hw
  rcases hw with rfl | rfl | rfl | rfl <;> decide

/-- The state at `MOV.B #5,0055h`, where 55h is an interrupt control register with an open window. -/
def storing : State :=
  { sample with
    mem := placeBytes [0xC7, 0x05, 0x55, 0x00] 0xF7000 [], intShadow := true
    sources := [{ source 21 3 with old := [⟨2, false, 2⟩] }] }

theorem witness_BoundaryAfter_store : storing.ready ∧ (∃ rest, decode storing.code =
      .ok (.movBSImm 5 (.mem (.abs16 0x55)), rest)) ∧
    (0x55#20) ∈ storedTo (.movBSImm 5 (.mem (.abs16 0x55))) storing.fetched.started ∧
    (∃ t, step storing = .next t ∧ t.resume = none) :=
  ⟨⟨rfl, rfl, rfl, .inl rfl⟩, ⟨_, rfl⟩, by decide, _, rfl, rfl⟩

theorem witness_BoundaryAfter_progress : (sample.withFetchWord 16 0x7CEA).ready ∧
    (∃ rest, decode (sample.withFetchWord 16 0x7CEA).code = .ok (.sstr .b, rest)) ∧
    ∃ t, step (sample.withFetchWord 16 0x7CEA) = .next t ∧ t.resume ≠ none :=
  ⟨⟨rfl, rfl, rfl, .inl rfl⟩, ⟨_, rfl⟩, _, rfl, by decide⟩

theorem witness_BoundaryAfter_popc : ∃ t, exec (.popc .flg) { sample with mem := [(0x0900, 0x40)] } = .next t ∧
    sample.flg.i = false ∧ t.flg.i = true := ⟨_, rfl, rfl, by decide⟩

/-- Edge addresses for reads. -/
theorem witness_MemoryReadWrite_plain :
    ∀ a ∈ [0x00400#20, 0x00401, 0x00402, 0x00403, 0xFFFFC, 0xFFFFD, 0xFFFFE, 0xFFFFF], sample.plain a :=
  plain_of (by decide)

/-- Accesses inside, across the end of, and outside the SFR area. -/
theorem witness_MemoryReadWrite_trace : sample.isSfr (0x00000 + BitVec.ofNat 20 0) = true ∧
    sample.isSfr (0x003FF + BitVec.ofNat 20 0) = true ∧ sample.isSfr (0xFFFFD + BitVec.ofNat 20 3) = true ∧
    (∀ k < 4, sample.isSfr (0x00400 + BitVec.ofNat 20 k) = false) ∧
    (∀ k < 4, sample.isSfr (0xFFFFC + BitVec.ofNat 20 k) = false) := by decide

/-- Edge addresses for stores. -/
theorem witness_MemoryReadWrite_writable :
    ∀ a ∈ [0x00000#20, 0x00001, 0x00002, 0x00003, 0xEFFFC, 0xEFFFD, 0xEFFFE, 0xEFFFF], sample.writable a = true :=
  writable_of (by decide)

/-- A stack pointer of 0 wraps: the push stores at FFFFh, and a word popped at FFFFh ends at 10000h. -/
theorem witness_StackPrimitives : ∀ a ∈ [near (0#16 - 1), near (0#16 - 2), near (0#16 - 2) + 1, near 0xFFFF#16,
    near 0xFFFF#16 + 1], sample.writable a = true ∧ sample.plain a := fun a ha =>
  ⟨writable_of (by decide) a ha, plain_of (by decide) a ha⟩

theorem witness_Conditions : showsDiff 0x80#8 0x01#8 false { Flg.zero with c := true, o := true } := by
  refine ⟨by decide, ?_, by decide, by decide⟩
  unfold showsO; decide

theorem witness_IntSeqResult : (∀ a ∈ pushedBytes 2 sample.isp, sample.writable a = true) ∧
    (∀ a ∈ pushedBytes 2 sample.sp, sample.writable a = true) ∧
    (∀ a ∈ [0xFFFDC#20, 0xFFFDC + 1, 0xFFFDC + 2, 0xFFFDC + 3], sample.plain a) :=
  ⟨writable_of (by decide), writable_of (by decide), plain_of (by decide)⟩

theorem witness_SoftwareInterrupts : ∀ i ∈ [Instr.und, .int 0, .int 31, .int 32, .int 63, .brk], sample.allows i :=
  allows_of (by decide)

theorem witness_SoftwareInterrupts_into :
    (flag .o true sample).flg.o = true ∧ (flag .o true sample).allows .into ∧ sample.flg.o = false ∧
    (∀ a ∈ [0xFFFE4#20, 0xFFFE5#20, 0xFFFE6#20, 0xFFFE7#20], sample.plain a) :=
  ⟨rfl, allows_of (l := [.into]) (by decide) _ (by simp), rfl, plain_of (by decide)⟩

theorem witness_ReitResult : (∀ a ∈ frameBytes sample.sp, sample.plain a) ∧
    framed [] sample.sp Flg.zero 0x00000#20 := ⟨plain_of (by decide), by unfold framed; decide⟩

/-- The state inside a routine just entered. -/
def entry : State :=
  match intSeq 0xFFFDC 0xF7001 true none sample with
  | .next t => t
  | _ => sample

theorem witness_ReitUndoesIntSeq : intSeq 0xFFFDC 0xF7001 true none sample = .next entry ∧
    ∀ a ∈ frameBytes entry.sp, entry.plain a := ⟨rfl, plain_of (by decide)⟩

theorem witness_WaitFrozen : ({ sample with waiting := true }).waiting = true ∧
    (chooseHw { sample with waiting := true }).1 = none := by decide

/-- Two sources of equal level; the first one wins. -/
def asked : State := { flag .i true sample with intb := 0xFFD00, sources := [source 20 3, source 21 3] }

theorem witness_RequestChoice : asked.settled ∧ asked.acceptable (source 20 3) ∧
    outranks asked.sources asked.acceptable 0 (source 20 3) := by
  refine ⟨⟨rfl, by simp [asked, source]⟩, ⟨rfl, rfl, by decide⟩, ?_⟩
  intro j y h _
  match j with
  | 0 => simp_all [asked, source]
  | 1 =>
    simp only [asked, List.getElem?_cons_succ, List.getElem?_cons_zero, Option.some.injEq] at h
    subst h; right; exact ⟨rfl, Nat.zero_le _⟩
  | n + 2 => simp [asked] at h

/-- Open windows on an earlier IPL and an earlier level: the source is acceptable on all of them. -/
def windowed : State :=
  { flag .i true sample with iplOld := [(2, 3)], sources := [{ source 20 4 with old := [⟨3, true, 2⟩] }] }

theorem witness_RequestChoice_windows : windowed.judgeI = true ∧
    ∃ x ∈ windowed.sources, ¬ x.mayShow false ∧ ∀ l p, x.mayLevel l → windowed.mayJudgeIpl p → p.toNat < l.toNat := by
  refine ⟨by decide, _, List.mem_singleton.mpr rfl, ?_, ?_⟩
  · simp [Source.mayShow, source]
  · rintro l p (rfl | ⟨w, hw, -, rfl⟩) (rfl | ⟨v, hv, -, rfl⟩) <;>
      simp_all [windowed, source, flag, sample, State.reset, Flg.zero, State.setFlg, Flg.put]

theorem witness_RequestChoice_chosen : (choosePeripheral asked).1 = some 0 ∧
    (choosePeripheral { sample with matchReq := true }).1 = none := by decide

theorem witness_AcceptSpecial : sample.examined ∧ ∀ a ∈ pushedBytes 2 sample.isp, sample.writable a = true :=
  ⟨⟨rfl, .inl rfl⟩, writable_of (by decide)⟩

/-- One state for each special request, and the choice it leads to. -/
theorem witness_AcceptSpecial_choices :
    (chooseHw { sample with nmiReq := true }).1 = some .nmi ∧
    (chooseHw { sample with dbcReq := true, product := { Product.default with dbc := true } }).1 = some .dbc ∧
    (chooseHw { sample with wdtReq := true }).1 = some .watchdog ∧
    (chooseHw { sample with stepReq := true }).1 = some .step ∧
    (chooseHw { sample with matchRegs := [⟨0xF7000, true⟩]
                            product := { Product.default with addressMatch := true } }).1 = some .addressMatch ∧
    (chooseHw { sample with matchReq := true
                            product := { Product.default with addressMatch := true } }).1 = some .addressMatch := by
  decide

theorem witness_AcceptPeripheral : asked.examined ∧ (chooseHw asked).1 = some (.peripheral 0) ∧
    asked.sources[0]? = some (source 20 3) ∧
    (∀ a ∈ pushedBytes 2 asked.isp, asked.writable a = true ∧ icrAt asked.sources a = none) ∧
    (∀ a ∈ [asked.intb + BitVec.ofNat 20 (4 * (source 20 3).num.toNat),
      asked.intb + BitVec.ofNat 20 (4 * (source 20 3).num.toNat) + 1,
      asked.intb + BitVec.ofNat 20 (4 * (source 20 3).num.toNat) + 2,
      asked.intb + BitVec.ofNat 20 (4 * (source 20 3).num.toNat) + 3], a ≠ 0#20 ∧ icrAt asked.sources a = none) := by
  refine ⟨⟨rfl, .inl rfl⟩, by decide, rfl, fun a ha => ⟨writable_of (by decide) a ha, ?_⟩, fun a ha => ?_⟩
  · exact (plain_of (s := asked) (l := pushedBytes 2 asked.isp) (by decide) a ha).2.2.2
  · have h := plain_of (s := asked) (by decide) a ha
    exact ⟨h.1, h.2.2.2⟩

theorem witness_HardReset : ({ sample with resetReq := true }).resetReq = true ∧
    sample.product.ramTop.toNat < (0xF0000#20).toNat := by decide

theorem witness_RequestBits : asked.sources[1]? = some (source 21 3) ∧
    (∃ t, writeByte .other 0x55 0x08 asked = .next t) ∧ (∃ t, writeByte .mov 0x55 0x07 asked = .next t) ∧
    (source 21 3).icr = 0x55 := ⟨rfl, ⟨_, rfl⟩, ⟨_, rfl⟩, rfl⟩

theorem witness_RequestBits_read : asked.isHole 0x55 = false ∧ icrAt asked.sources 0x55 = some (source 20 3) ∧
    (icrAt (readByte 0x55 asked).2.sources 0x55).isSome = true := by decide

theorem witness_MovResult : ∀ i ∈ [Instr.movBSHalfDest .r0h (.sb8 0xFF), .movBSSrcHalf .r0l .other,
    .movBSSrcAn .a1 .other, .movGSrc .b (.data .d3) (.addr .a0), .movGSrc .w (.mem (.ind .a0)) (.mem (.fb8 0x80)),
    .movGImm (.w 0x8000) (.data .d3), .movQ .b 0x8 (.addr .a1), .movBSImm 0x80 (.half .r0l), .movBZ (.half .r0h),
    .movGFromSp .w 0x80 (.addr .a0), .movGToSp .b (.addr .a1) 0x7F], sample.allows i := allows_of (by decide)

theorem witness_FarData : ∀ i ∈ [Instr.ldeAbs20 .b 0xFFFFF (.addr .a0), .ldeDsp20 .w 0xFFFFF (.data .d0),
    .ldeA1A0 .w (.mem (.ind .a1)), .steAbs20 .w (.data .d0) 0xEFFFE, .steDsp20 .b (.addr .a1) 0x10000],
    sample.allows i := allows_of (by decide)

theorem witness_FarData_pair : ({ sample with bank0 := { sampleBank with a1 := 0xFFF0 } } : State).allows
    (.steA1A0 .b (.addr .a0)) := allows_of (l := [.steA1A0 .b (.addr .a0)]) (by decide) _ (by simp)

theorem witness_OtherTransfers : ∀ i ∈ [Instr.mova (.fb8 0x80) .a0, .movDirToR0L .hl (.data .d3),
    .movDirFromR0L .lh (.mem (.ind .a0)), .stnz 1 (.half .r0l), .stzx 1 2 (.mem (.abs16 0x0400)),
    .xchg .b .d3 (.addr .a0), .xchg .b .d0 (.mem (.ind .a0)), .xchg .w .d1 (.data .d1)], sample.allows i :=
  allows_of (by decide)

theorem witness_OtherTransfers_zero : sample.flg.z = false ∧ (flag .z true sample).flg.z = true ∧
    (flag .z true sample).allows (.stz 1 (.mem (.sb8 0))) :=
  ⟨rfl, rfl, allows_of (l := [.stz 1 (.mem (.sb8 0))]) (by decide) _ (by simp)⟩

theorem witness_PushPop : ∀ i ∈ [Instr.pushGImm (.w 0xFFFF), .pushG .b (.data .d3), .pushBS .r0h, .pushWS .a1,
    .pusha (.rel16 .a0 0xFFFF), .pushc .sp, .popG .w (.addr .a0), .popG .b (.mem (.ind .a0))], sample.allows i :=
  allows_of (by decide)

theorem witness_PushmPopm : ∀ list ∈ [0x00#8, 0x81#8, 0xFF#8], sample.allows (.pushm list) := by
  intro l hl
  exact allows_of (s := sample) (l := [.pushm 0x00, .pushm 0x81, .pushm 0xFF]) (by decide) _
    (by simp only [List.mem_cons, List.not_mem_nil, or_false] at hl ⊢; rcases hl with rfl | rfl | rfl <;> simp)

theorem witness_PushmPopm_plain : ∀ a ∈ spillBytes (listed 0xFF).length sample.sp, sample.plain a :=
  plain_of (by decide)

theorem witness_PopmUndoesPushm : exec (.pushm 0xFF) sample = .next (after (.pushm 0xFF) sample) ∧
    ∀ a ∈ spillBytes (listed (mirrored 0xFF)).length (after (.pushm 0xFF) sample).sp,
      (after (.pushm 0xFF) sample).plain a := ⟨rfl, plain_of (by decide)⟩

theorem witness_BitWrites : ∀ i ∈ [Instr.bclrG (.reg .a1 15), .bclrS 7 0xFF, .bsetG (.abs16 0xFFFF), .bsetS 0 0,
    .bnotG (.fb8 0x80), .bnotS 3 1, .btstc (.ind .a0), .btsts (.sb16 0xFFFF), .bmcnd (.rel8 .a1 0xFF) .lt],
    sample.allows i := allows_of (by decide)

theorem witness_ShiftImmediate : ∀ i ∈ [Instr.rotImm .b 0 (.data .d0), .rotImm .w 15 (.mem (.ind .a0)),
    .shaImm .b 7 (.data .d3), .shaImm .w 8 (.addr .a0), .shlImm .w 7 (.data .d0), .shlImm .b 15 (.mem (.sb8 0)),
    .rolc .b (.data .d0), .rorc .w (.addr .a1)], sample.allows i := allows_of (by decide)

theorem witness_ShiftByRegister_zero : (withR1 0x00FF).count = 0#8 ∧ (Instr.rotR1H .b (.data .d0)).wellFormed = true ∧
    (Instr.shaR1H .w (.data .d0)).wellFormed = true ∧ (Instr.shlR1H .w (.mem (.ind .a0))).wellFormed = true := by decide

/-- Counts at the ends of the legal ranges and just outside. -/
theorem witness_ShiftByRegister : ∀ v ∈ [0x0100#16, 0xFF00, 0x0800, 0xF800, 0x0900, 0x1000, 0xF000, 0x1100, 0x8000],
    (withR1 v).count ≠ 0#8 ∧ (withR1 v).allows (.rotR1H .b (.data .d0)) ∧
    (withR1 v).allows (.shaR1H .w (.data .d0)) ∧ (withR1 v).allows (.shlR1H .w (.mem (.ind .a0))) := by
  intro v hv
  simp only [List.mem_cons, List.not_mem_nil, or_false] at hv
  rcases hv with rfl | rfl | rfl | rfl | rfl | rfl | rfl | rfl | rfl <;>
    exact ⟨by decide, allows_of (l := [.rotR1H .b (.data .d0)]) (by decide) _ (by simp),
      allows_of (l := [.shaR1H .w (.data .d0)]) (by decide) _ (by simp),
      allows_of (l := [.shlR1H .w (.mem (.ind .a0))]) (by decide) _ (by simp)⟩

theorem witness_ShiftByRegister_range : (withR1 0x0800).count.toInt.natAbs = Size.bits .b ∧
    (withR1 0xF000).count.toInt.natAbs = Size.bits .w ∧ (withR1 0xF000).count ≠ 0#8 ∧
    (withR1 0x00FF).count = 0#8 := by decide

theorem witness_AddResult : ∀ i ∈ [Instr.addGImm (.b 0xFF) (.addr .a0), .addQ .w 8 (.data .d0),
    .addBSImm 0x7F (.half .r0h), .addGSrc .b (.data .d0) (.addr .a1), .addGSrc .w (.mem (.ind .a0)) (.mem (.ind .a0)),
    .addBSSrc .r0l .other, .adcImm (.w 0xFFFF) (.data .d3), .adcSrc .b (.addr .a0) (.data .d0)], sample.allows i :=
  allows_of (by decide)

theorem witness_SubResult : ∀ i ∈ [Instr.subGImm (.b 0xFF) (.addr .a0), .subBSImm 0x80 (.half .r0h),
    .subGSrc .b (.data .d0) (.addr .a1), .subGSrc .w (.mem (.ind .a0)) (.mem (.ind .a0)), .subBSSrc .r0l .other,
    .sbbImm (.w 0xFFFF) (.data .d3), .sbbSrc .b (.addr .a0) (.data .d0)], sample.allows i := allows_of (by decide)

theorem witness_CompareResult : ∀ i ∈ [Instr.cmpGImm (.b 0x80) (.addr .a0), .cmpQ .w 8 (.data .d0),
    .cmpBSImm 0 (.mem (.abs16 0)), .cmpGSrc .w (.addr .a0) (.addr .a1), .cmpBSSrc .r0h .other,
    .tstImm (.w 0x8000) (.mem (.ind .a0)), .tstSrc .b (.data .d0) (.addr .a0)], i.wellFormed = true := by
  intro i hi
  exact (allows_of (s := sample) (l := [Instr.cmpGImm (.b 0x80) (.addr .a0), .cmpQ .w 8 (.data .d0),
    .cmpBSImm 0 (.mem (.abs16 0)), .cmpGSrc .w (.addr .a0) (.addr .a1), .cmpBSSrc .r0h .other,
    .tstImm (.w 0x8000) (.mem (.ind .a0)), .tstSrc .b (.data .d0) (.addr .a0)]) (by decide) i hi).1

theorem witness_LogicResult : ∀ i ∈ [Instr.andGImm (.b 0) (.addr .a0), .andBSImm 0xFF (.half .r0h),
    .andGSrc .w (.mem (.ind .a0)) (.data .d3), .andBSSrc .r0l .other, .orGImm (.w 0x8000) (.addr .a1),
    .orBSImm 0x80 (.mem (.sb8 0xFF)), .orGSrc .b (.data .d3) (.addr .a0), .orBSSrc .r0h (.mem (.fb8 0x80)),
    .xorImm (.b 0xFF) (.data .d2), .xorSrc .w (.addr .a0) (.mem (.ind .a0))], sample.allows i := allows_of (by decide)

theorem witness_OneOperand : ∀ i ∈ [Instr.neg .w (.data .d2), .notG .b (.data .d3), .notBS (.half .r0h),
    .incB (.mem (.abs16 0xFFFF)), .decB (.half .r0l), .adcf .w (.addr .a0), .abs .b (.mem (.ind .a0)),
    .extsB (.data .d2), .extsB (.mem (.ind .a0))], sample.allows i := allows_of (by decide)

theorem witness_MultiplyResult : ∀ i ∈ [Instr.mulImm (.b 0x80) (.data .d2), .mulSrc .w (.addr .a1) (.addr .a0),
    .muluImm (.w 0xFFFF) (.mem (.abs16 0xFFFD)), .muluSrc .b (.data .d1) (.mem (.ind .a0))], sample.allows i :=
  allows_of (by decide)

/-- Division: a quotient that fits, one that does not, and a zero divisor. -/
theorem witness_DivideResult : fits 8 ((-10 : Int).tdiv 3) ∧ ¬ fits 8 ((0x8000#16).toInt.tdiv 1) ∧
    fits 16 (((0x80000000#32).toInt).fdiv (0x8000 * 2)) ∧ ¬ ((0#8).toNat ≠ 0) := by
  unfold fits; decide

theorem witness_DecimalResult : decValue 2 (0x99#8).toNat = some 99 ∧ decValue 4 (0x0000#16).toNat = some 0 ∧
    decValue 4 (0x9999#16).toNat = some 9999 := by decide

/-- `RMPA`: no iteration, one that fits at the edge of the range, and one that does not. -/
theorem witness_RmpaIteration : State.reset.bank.r3 = 0#16 ∧ sample.bank.r3 ≠ 0#16 ∧
    fits (2 * Size.bits .b) (0x7FFF : Int) ∧ ¬ fits (2 * Size.bits .b) (0x8000 : Int) := by unfold fits; decide

theorem witness_StringIteration : State.reset.bank.r3 = 0#16 ∧ sample.bank.r3 ≠ 0#16 ∧
    ∀ i ∈ [Instr.smovb .b, .smovb .w, .smovf .b, .smovf .w, .sstr .b, .sstr .w], sample.allows i :=
  ⟨by decide, by decide, allows_of (by decide)⟩

theorem witness_Jumps : Cond.inByteForm .pz = true ∧ Cond.inByteForm .lt = false ∧ 18 ≤ (18#8).toNat ∧
    18 ≤ (255#8).toNat ∧ ∀ i ∈ [Instr.adjnz .b 8 (.data .d3) 0x80, .sbjnz .w 0 (.addr .a0) 0x7F], sample.allows i :=
  ⟨rfl, rfl, by decide, by decide, allows_of (by decide)⟩

theorem witness_CallsAndReturn : ∀ i ∈ [Instr.jsrW 0x8000, .jsrA 0xFFFFF, .jsriW (.reg .a1),
    .jsriW (.mem (.rel20 .a0 0xFFFFF)), .jsriA (.pair .a1a0), .jsrs 18, .jsrs 255], sample.allows i :=
  allows_of (by decide)

theorem witness_CallsAndReturn_plain : (∀ a ∈ returnBytes sample.sp, sample.plain a) ∧
    (∀ a ∈ [BitVec.ofNat 20 (0xFFFFE - 2 * (255#8).toNat), BitVec.ofNat 20 (0xFFFFE - 2 * (255#8).toNat) + 1],
      sample.plain a) := ⟨plain_of (by decide), plain_of (by decide)⟩

theorem witness_ReturnUndoesCall : (∃ d, Instr.jsrW 0x8000 = .jsrW d) ∧
    exec (.jsrW 0x8000) sample = .next (after (.jsrW 0x8000) sample) ∧
    ∀ a ∈ returnBytes (after (.jsrW 0x8000) sample).sp, (after (.jsrW 0x8000) sample).plain a :=
  ⟨⟨_, rfl⟩, rfl, plain_of (by decide)⟩

theorem witness_StackFrame : sample.allows (.enter 0xFF) ∧
    ∀ a ∈ [near sample.bank.fb, near sample.bank.fb + 1] ++ returnBytes (sample.bank.fb + 2), sample.plain a :=
  ⟨allows_of (l := [.enter 0xFF]) (by decide) _ (by simp), plain_of (by decide)⟩

/-- A task whose information selects every register. -/
def tasked : State := { sample with mem := [(0x0400, 1#8), (0xF8002, 0xFF#8), (0xF8003, 0x10#8)] }

theorem witness_TaskContext :
    (∀ a ∈ [near 0x0400#16, 0xF8002#20, 0xF8003#20] ++ spillBytes (listed 0xFF).length tasked.sp, tasked.plain a) ∧
    tasked.allows (.stctx 0x0400 0xF8000) :=
  ⟨plain_of (by decide), allows_of (l := [.stctx 0x0400 0xF8000]) (by decide) _ (by simp)⟩

theorem witness_ControlRegisters : ∀ i ∈ [Instr.stcDest .flg (.addr .a1), .stcDest .intbh (.mem (.ind .a0)),
    .stcPc (.mem (.abs16 0xFFFE))], sample.allows i := allows_of (by decide)

end Sys2Proof.Machine.Tests
end

section
/-! PROOFS. Conditions and comparisons (R441), the environment between two steps (R555), and the two-operand
instructions that add, subtract, compare and test. -/

namespace Sys2Proof.Machine

/-! The conditions as flags (R441). -/

theorem condHolds_geu (f : Flg) : condHolds .geu f = true ↔ f.c = true := Iff.rfl
theorem condHolds_gtu (f : Flg) : condHolds .gtu f = true ↔ f.c = true ∧ f.z = false := by simp [condHolds]
theorem condHolds_eq (f : Flg) : condHolds .eq f = true ↔ f.z = true := Iff.rfl
theorem condHolds_n (f : Flg) : condHolds .n f = true ↔ f.s = true := Iff.rfl
theorem condHolds_ltu (f : Flg) : condHolds .ltu f = true ↔ f.c = false := by simp [condHolds]
theorem condHolds_leu (f : Flg) : condHolds .leu f = true ↔ ¬(f.c = true ∧ f.z = false) := by
  simp [condHolds, imp_iff_not_or]
theorem condHolds_ne (f : Flg) : condHolds .ne f = true ↔ f.z = false := by simp [condHolds]
theorem condHolds_pz (f : Flg) : condHolds .pz f = true ↔ f.s = false := by simp [condHolds]
theorem condHolds_le (f : Flg) : condHolds .le f = true ↔ f.s ≠ f.o ∨ f.z = true := by simp [condHolds]
theorem condHolds_o (f : Flg) : condHolds .o f = true ↔ f.o = true := Iff.rfl
theorem condHolds_ge (f : Flg) : condHolds .ge f = true ↔ f.s = f.o := by simp [condHolds]
theorem condHolds_gt (f : Flg) : condHolds .gt f = true ↔ f.s = f.o ∧ f.z = false := by simp [condHolds]
theorem condHolds_no (f : Flg) : condHolds .no f = true ↔ f.o = false := by simp [condHolds]
theorem condHolds_lt (f : Flg) : condHolds .lt f = true ↔ f.s ≠ f.o := by simp [condHolds]

/-! What the flags of a difference say of its operands (R14). -/

/-- A signed subtraction overflows exactly when the exact difference is not the one computed. -/
theorem ssubOverflow_iff_toInt_sub_ne {w : Nat} (d v : BitVec w) :
    d.ssubOverflow v = true ↔ d.toInt - v.toInt ≠ (d - v).toInt := by
  constructor
  · intro hover heq
    have hlow := (d - v).le_toInt
    have hhigh := (d - v).toInt_lt
    simp only [BitVec.ssubOverflow, Bool.or_eq_true, decide_eq_true_eq] at hover
    omega
  · intro hne
    by_contra hfits
    exact hne (BitVec.toInt_sub_of_not_ssubOverflow hfits).symm

/-- The sign of the difference and the overflow together give the signed order. -/
theorem msb_sub_ne_ssubOverflow_iff {w : Nat} (d v : BitVec w) :
    (d - v).msb ≠ d.ssubOverflow v ↔ d.toInt < v.toInt := by
  have hpos : (0 : Int) < 2 ^ (w - 1) := by positivity
  by_cases hhigh : 2 ^ (w - 1) ≤ d.toInt - v.toInt
  · obtain ⟨-, -, hneg⟩ := BitVec.twoPow_le_toInt_sub_toInt_iff.mp hhigh
    have hmsb : (d - v).msb = true := by simpa [BitVec.msb_eq_toInt, BitVec.toInt_sub] using hneg
    have hover : d.ssubOverflow v = true := by simp [BitVec.ssubOverflow, hhigh]
    simp only [hmsb, hover, ne_eq, not_true_eq_false, false_iff]
    omega
  · by_cases hlow : d.toInt - v.toInt < -2 ^ (w - 1)
    · obtain ⟨-, -, hnonneg⟩ := BitVec.toInt_sub_toInt_lt_twoPow_iff.mp hlow
      have hmsb : (d - v).msb = false := by simpa [BitVec.msb_eq_toInt, BitVec.toInt_sub] using hnonneg
      have hover : d.ssubOverflow v = true := by simp [BitVec.ssubOverflow, hlow]
      simp only [hmsb, hover, ne_eq, Bool.false_eq_true, not_false_eq_true, true_iff]
      omega
    · have hfits : d.ssubOverflow v = false := by simp [BitVec.ssubOverflow, hhigh, hlow]
      have hexact : (d - v).toInt = d.toInt - v.toInt := BitVec.toInt_sub_of_not_ssubOverflow (by simp [hfits])
      simp [hfits, BitVec.msb_eq_toInt, hexact]

section
variable {w : Nat} {d v : BitVec w} {f : Flg}

theorem showsDiff_c_iff (h : showsDiff d v false f) : f.c = true ↔ v.toNat ≤ d.toNat := by
  obtain ⟨hc, -, -⟩ := h
  simp [hc]

theorem showsDiff_z_iff (h : showsDiff d v false f) : f.z = true ↔ d = v := by
  obtain ⟨-, -, -, hz⟩ := h
  simp [hz, BitVec.sub_eq_iff_eq_add]

theorem showsDiff_s (h : showsDiff d v false f) : f.s = (d - v).msb := by
  obtain ⟨-, -, hs, -⟩ := h
  simpa using hs

theorem showsDiff_o (h : showsDiff d v false f) : f.o = d.ssubOverflow v := by
  obtain ⟨-, ho, -⟩ := h
  rw [ho, BitVec.ssubOverflow, ← Bool.decide_or, decide_eq_decide]
  simp only [Bool.toNat_false]
  push_cast
  omega

theorem showsDiff_s_iff (h : showsDiff d v false f) : f.s = true ↔ (d - v).toInt < 0 := by
  rw [showsDiff_s h, BitVec.msb_eq_toInt, decide_eq_true_eq]

theorem showsDiff_o_iff (h : showsDiff d v false f) : f.o = true ↔ d.toInt - v.toInt ≠ (d - v).toInt := by
  rw [showsDiff_o h, ssubOverflow_iff_toInt_sub_ne]

theorem showsDiff_s_ne_o_iff (h : showsDiff d v false f) : f.s ≠ f.o ↔ d.toInt < v.toInt := by
  rw [showsDiff_s h, showsDiff_o h, msb_sub_ne_ssubOverflow_iff]

end

/-- Settles O23: the conditions as flags, and then what the flags of a difference say. -/
theorem conditions : Obligations.Conditions := by
  intro f
  refine ⟨condHolds_geu f, condHolds_gtu f, condHolds_eq f, condHolds_n f, condHolds_ltu f, condHolds_leu f,
    condHolds_ne f, condHolds_pz f, condHolds_le f, condHolds_o f, condHolds_ge f, condHolds_gt f, condHolds_no f,
    condHolds_lt f, fun w d v _ h => ?_⟩
  have hc := showsDiff_c_iff h
  have hz := showsDiff_z_iff h
  have hs := showsDiff_s_iff h
  have ho := showsDiff_o_iff h
  have hlt := showsDiff_s_ne_o_iff h
  have hnat : d = v ↔ d.toNat = v.toNat := BitVec.toNat_inj.symm
  have hint : d = v ↔ d.toInt = v.toInt := BitVec.toInt_inj.symm
  have hc' : f.c = false ↔ ¬ v.toNat ≤ d.toNat := by rw [← hc, Bool.not_eq_true]
  have hz' : f.z = false ↔ ¬ d = v := by rw [← hz, Bool.not_eq_true]
  have hs' : f.s = false ↔ ¬ (d - v).toInt < 0 := by rw [← hs, Bool.not_eq_true]
  have ho' : f.o = false ↔ d.toInt - v.toInt = (d - v).toInt := by rw [← Bool.not_eq_true, ho, not_not]
  have hge : f.s = f.o ↔ ¬ d.toInt < v.toInt := by rw [← hlt, not_not]
  refine ⟨?geu, ?gtu, ?eq, ?n, ?pz, ?ltu, ?o, ?no, ?leu, ?ne, ?ge, ?gt, ?le, ?lt⟩
  case geu => exact hc
  case gtu => rw [condHolds_gtu, hc, hz', hnat]; omega
  case eq => exact hz
  case n => exact hs
  case pz => rw [condHolds_pz, hs']; omega
  case ltu => rw [condHolds_ltu, hc']; omega
  case o => exact ho
  case no => rw [condHolds_no, ho']
  case leu => rw [condHolds_leu, hc, hz', hnat]; omega
  case ne => rw [condHolds_ne, hz']
  case ge => rw [condHolds_ge, hge]; omega
  case gt => rw [condHolds_gt, hge, hz', hint]; omega
  case le => rw [condHolds_le, hlt, hz, hint]; omega
  case lt => rw [condHolds_lt, hlt]

/-! The environment between two steps (R555). -/

/-- `raiseIrAt` is the library's modification of one element. -/
theorem raiseIrAt_eq_modify (k : Nat) (l : List Source) :
    raiseIrAt k l = l.modify k fun x => { x with ir := true } := by
  induction l generalizing k with
  | nil => cases k <;> rfl
  | cons x l ih =>
    cases k with
    | zero => rfl
    | succ k => simp [raiseIrAt, ih]

/-- What stands at a position after a request is raised. -/
theorem raiseIrAt_getElem? (k j : Nat) (l : List Source) :
    (raiseIrAt k l)[j]? = (l[j]?).map fun x => if k = j then { x with ir := true } else x := by
  rw [raiseIrAt_eq_modify, List.getElem?_modify]
  rfl

/-- A raised request changes nothing but request bits, and those only from 0 to 1. -/
theorem raiseIrAt_raises {k j : Nat} {l : List Source} {x : Source} (h : l[j]? = some x) :
    ∃ ir, (raiseIrAt k l)[j]? = some { x with ir := ir } ∧ (x.ir = true → ir = true) := by
  rw [raiseIrAt_getElem?, h]
  by_cases hk : k = j
  · exact ⟨true, by simp [hk], fun _ => rfl⟩
  · exact ⟨x.ir, by simp [hk], id⟩

/-- The windows of the sources stay where a request is raised. -/
theorem raiseIrAt_old {k : Nat} {l : List Source} {y : Source} (h : y ∈ raiseIrAt k l) : ∃ x ∈ l, y.old = x.old := by
  obtain ⟨j, hj⟩ := List.mem_iff_getElem?.mp h
  rw [raiseIrAt_getElem?, Option.map_eq_some_iff] at hj
  obtain ⟨x, hx, rfl⟩ := hj
  exact ⟨x, List.mem_of_getElem? hx, by split <;> rfl⟩

/-- The action on an address of the SFR area, and that it does nothing elsewhere, as one update of memory. -/
theorem env_sfr (a : Addr) (v : Byte) (s : State) :
    env (.sfr a v) s = { s with mem := if s.isSfr a then memSet s.mem a.toNat v else s.mem } := by
  simp only [env]
  split <;> rfl

/-- An action changes at most the SFR area, the requests of the sources, NMI, watchdog, DBC, reset, and the
address-match registers. -/
theorem env_rest (e : EnvAction) (s : State) : env e s =
    { s with mem := (env e s).mem, sources := (env e s).sources, nmiReq := (env e s).nmiReq
             wdtReq := (env e s).wdtReq, dbcReq := (env e s).dbcReq, resetReq := (env e s).resetReq
             matchRegs := (env e s).matchRegs } := by
  cases e with
  | sfr a v => rw [env_sfr]
  | _ => rfl

/-- The bytes of other addresses stay when a byte of the SFR area changes. -/
theorem env_sfr_mem_other {a b : Addr} {v : Byte} {s : State} (hb : b ≠ a) :
    memGet (env (.sfr a v) s).mem b.toNat = memGet s.mem b.toNat := by
  rw [env_sfr]
  split
  · exact memGet_memSet_other _ _ _ _ fun hn => hb (BitVec.eq_of_toNat_eq hn)
  · rfl

/-- No action changes memory outside the SFR area. -/
theorem env_mem_outside {e : EnvAction} {s : State} {b : Addr} (hb : s.isSfr b = false) :
    memGet (env e s).mem b.toNat = memGet s.mem b.toNat := by
  cases e with
  | sfr a v =>
    by_cases hba : b = a
    · subst hba; simp [env_sfr, hb]
    · exact env_sfr_mem_other hba
  | _ => rfl

/-- No action breaks the canonical form of memory. -/
theorem env_memWf (e : EnvAction) {s : State} (h : memWf s.mem) : memWf (env e s).mem := by
  cases e with
  | sfr a v =>
    rw [env_sfr]
    split
    · exact memSet_wf _ _ _ a.isLt h
    · exact h
  | _ => exact h

/-- No action changes the number, the register address or the level of a source, or clears its request. -/
theorem env_source {e : EnvAction} {s : State} {j : Nat} {x : Source} (h : s.sources[j]? = some x) :
    ∃ ir, (env e s).sources[j]? = some { x with ir := ir } ∧ (x.ir = true → ir = true) := by
  cases e with
  | request k => exact raiseIrAt_raises h
  | sfr a v => rw [env_sfr]; exact ⟨x.ir, h, id⟩
  | _ => exact ⟨x.ir, h, id⟩

/-- No action changes the windows of a source. -/
theorem env_old {e : EnvAction} {s : State} {y : Source} (h : y ∈ (env e s).sources) :
    ∃ x ∈ s.sources, y.old = x.old := by
  cases e with
  | request k => exact raiseIrAt_old h
  | sfr a v => rw [env_sfr] at h; exact ⟨y, h, rfl⟩
  | _ => exact ⟨y, h, rfl⟩

/-- No action withdraws a pending NMI, watchdog or DBC request (log 51). -/
theorem env_keeps_requests (e : EnvAction) (s : State) :
    (s.nmiReq = true → (env e s).nmiReq = true) ∧ (s.wdtReq = true → (env e s).wdtReq = true) ∧
      (s.dbcReq = true → (env e s).dbcReq = true) := by
  cases e with
  | nmi => exact ⟨fun _ => rfl, id, id⟩
  | watchdog => exact ⟨id, fun _ => rfl, id⟩
  | dbc => exact ⟨id, id, fun h => by simp [env, h]⟩
  | sfr a v => rw [env_sfr]; exact ⟨id, id, id⟩
  | _ => exact ⟨id, id, id⟩

/-- Every action keeps the invariant. -/
theorem env_consistent (e : EnvAction) {s : State} (h : Consistent s) : Consistent (env e s) where
  memory := env_memWf e h.memory
  progress := by rw [env_rest]; exact h.progress
  queue := by rw [env_rest]; exact h.queue
  iplWindows := by rw [env_rest]; exact h.iplWindows
  levelWindows y hy := by
    obtain ⟨x, hx, hold⟩ := env_old hy
    have hproduct : (env e s).product = s.product := by rw [env_rest]
    rw [hold, hproduct]
    exact h.levelWindows x hx

/-- DBC exists where the product has it, and the action does nothing elsewhere (R555). -/
theorem env_dbc (s : State) :
    (s.product.dbc = true → (env .dbc s).dbcReq = true) ∧ (s.product.dbc = false → env .dbc s = s) :=
  ⟨fun h => by simp [env, h], fun h => by simp [env, h]⟩

/-- Settles O11: the frame of every action, and then the effect of each. -/
theorem environmentAgent : Obligations.EnvironmentAgent := by
  refine ⟨fun e s => ?frame, fun k s x hx => ?request, fun s => ⟨rfl, rfl, rfl⟩, env_dbc,
    fun a v s ha => ⟨?stored, fun b hb => env_sfr_mem_other hb⟩, fun k m s hk => ?matchReg⟩
  case frame =>
    obtain ⟨hnmi, hwdt, hdbc⟩ := env_keeps_requests e s
    refine ⟨env_consistent e, ?_, ?_, ?_, ?_, ?_, ?_, ?_, ?_, fun a ha => env_mem_outside ha, hnmi, hwdt, hdbc,
      ?_, ?_, fun j x hx => ?source⟩
    case source =>
      obtain ⟨ir, hy, hir⟩ := env_source (e := e) hx
      exact ⟨_, hy, rfl, rfl, rfl, hir⟩
    all_goals rw [env_rest]
  case request => exact ⟨{ x with ir := true }, by simp [env, raiseIrAt_getElem?, hx], rfl⟩
  case stored => simp [env_sfr, ha]
  case matchReg => simp [env, hk]

/-! Two-operand instructions (R102, R330). -/

/-- An operation whose bytes can all be stored to completes. -/
theorem Acts.completes {l : List Addr} {s : State} {r : Result} (h : Acts l s r)
    (hw : ∀ a ∈ l, s.writable a = true) : ∃ t, r = .next t := by
  rcases h with ⟨-, t, hr, -⟩ | ⟨a, ha, hrom, -⟩ | ⟨a, ha, -, hhole, -⟩
  · exact ⟨t, hr⟩
  · simpa [State.writable, hrom] using hw a ha
  · simpa [State.writable, hhole] using hw a ha

/-- Moving on to the next instruction leaves the destination as it is. -/
theorem TwoOperands.leaves_advance {p : TwoOperands} {t : State} {n : Nat}
    {rel : (w : Nat) → BitVec w → BitVec w → BitVec w → Prop} (h : p.leaves t rel) : p.leaves (t.advance n) rel := by
  obtain ⟨z, v, l, s⟩ := p
  cases z <;> cases l <;> exact h

section
variable {i : Instr} {body : State → Result} {s : State} {op : AluOp} {p : TwoOperands}

/-- A two-operand instruction whose stores can be made completes, and leaves what its operation gives. The operands are
read in `p.s`, which differs from `s` by what reading the source does. -/
theorem exec_aluTo {rel : (w : Nat) → BitVec w → BitVec w → BitVec w → Flg → Prop}
    (hexec : exec i s = sequential i body s) (hbody : body s = aluTo op p.z p.v p.l p.s)
    (hop : ∀ w d v, rel w d v (op w d v s.flg).1 (op w d v s.flg).2) (hread : Touches [] s p.s)
    (h : i.wellFormed = true ∧ ∀ a ∈ locBytes p.z p.l, s.writable a = true) :
    ∃ t, exec i s = .next t ∧ p.leaves t fun w d v r => rel w d v r t.flg := by
  obtain ⟨hi, hw⟩ := h
  obtain ⟨u, hu⟩ := (aluTo_acts op p.z p.v p.l p.s).completes fun a ha => by rw [hread.writable]; exact hw a ha
  refine ⟨u.advance i.length, hexec.trans (sequential_eq_next.mpr ⟨hi, u, hbody.trans hu, rfl⟩), ?_⟩
  refine TwoOperands.leaves_advance (TwoOperands.leaves_mono (aluTo_result hu) ?_)
  rintro w d v r ⟨rfl, hflg⟩
  rw [State.advance_flg, hflg, hread.flg]
  exact hop w d v

/-- A two-operand instruction that only sets flags always completes, and leaves the flags its operation gives. -/
theorem exec_aluTest {rel : (w : Nat) → BitVec w → BitVec w → Flg → Prop}
    (hexec : exec i s = sequential i body s) (hbody : body s = aluTest op p.z p.v p.l p.s)
    (hop : ∀ w d v, rel w d v (op w d v s.flg).2) (hread : Touches [] s p.s) (hi : i.wellFormed = true) :
    ∃ t, exec i s = .next t ∧ p.leaves t fun w d v _ => rel w d v t.flg := by
  obtain ⟨u, hu, hleaves⟩ := aluTest_result op p.z p.v p.l p.s
  refine ⟨u.advance i.length, hexec.trans (sequential_eq_next.mpr ⟨hi, u, hbody.trans hu, rfl⟩), ?_⟩
  refine TwoOperands.leaves_advance (TwoOperands.leaves_mono hleaves ?_)
  intro w d v _ hflg
  rw [State.advance_flg, hflg, hread.flg]
  exact hop w d v

end

theorem aluAdd_shows (f : Flg) (w : Nat) (d v : BitVec w) :
    (aluAdd w d v f).1 = d + v ∧ showsSum d v false (aluAdd w d v f).2 := by
  simpa [aluAdd] using addFlags_result d v false f

theorem aluAdc_shows (f : Flg) (w : Nat) (d v : BitVec w) :
    (aluAdc w d v f).1 = d + v + BitVec.ofNat w f.c.toNat ∧ showsSum d v f.c (aluAdc w d v f).2 :=
  addFlags_result d v f.c f

theorem aluSub_shows (f : Flg) (w : Nat) (d v : BitVec w) :
    (aluSub w d v f).1 = d - v ∧ showsDiff d v false (aluSub w d v f).2 := by
  simpa [aluSub] using subFlags_result d v false f

theorem aluSbb_shows (f : Flg) (w : Nat) (d v : BitVec w) :
    (aluSbb w d v f).1 = d - v - BitVec.ofNat w (!f.c).toNat ∧ showsDiff d v (!f.c) (aluSbb w d v f).2 :=
  subFlags_result d v (!f.c) f

section
variable {i : Instr} {body : State → Result} {s : State} (p : TwoOperands)

/-- An instruction that adds leaves the sum and its flags. -/
theorem exec_add (hexec : exec i s = sequential i body s) (hbody : body s = aluTo aluAdd p.z p.v p.l p.s)
    (hread : Touches [] s p.s) (h : i.wellFormed = true ∧ ∀ a ∈ locBytes p.z p.l, s.writable a = true) :
    ∃ t, exec i s = .next t ∧ p.leaves t fun _ d v r => r = d + v ∧ showsSum d v false t.flg :=
  exec_aluTo hexec hbody (rel := fun _ d v r f => r = d + v ∧ showsSum d v false f) (aluAdd_shows s.flg) hread h

/-- An instruction that adds with carry leaves the sum and its flags. -/
theorem exec_adc (hexec : exec i s = sequential i body s) (hbody : body s = aluTo aluAdc p.z p.v p.l p.s)
    (hread : Touches [] s p.s) (h : i.wellFormed = true ∧ ∀ a ∈ locBytes p.z p.l, s.writable a = true) :
    ∃ t, exec i s = .next t ∧
      p.leaves t fun w d v r => r = d + v + BitVec.ofNat w s.flg.c.toNat ∧ showsSum d v s.flg.c t.flg :=
  exec_aluTo hexec hbody (rel := fun w d v r f => r = d + v + BitVec.ofNat w s.flg.c.toNat ∧ showsSum d v s.flg.c f)
    (aluAdc_shows s.flg) hread h

/-- An instruction that subtracts leaves the difference and its flags. -/
theorem exec_sub (hexec : exec i s = sequential i body s) (hbody : body s = aluTo aluSub p.z p.v p.l p.s)
    (hread : Touches [] s p.s) (h : i.wellFormed = true ∧ ∀ a ∈ locBytes p.z p.l, s.writable a = true) :
    ∃ t, exec i s = .next t ∧ p.leaves t fun _ d v r => r = d - v ∧ showsDiff d v false t.flg :=
  exec_aluTo hexec hbody (rel := fun _ d v r f => r = d - v ∧ showsDiff d v false f) (aluSub_shows s.flg) hread h

/-- An instruction that subtracts with borrow leaves the difference and its flags. -/
theorem exec_sbb (hexec : exec i s = sequential i body s) (hbody : body s = aluTo aluSbb p.z p.v p.l p.s)
    (hread : Touches [] s p.s) (h : i.wellFormed = true ∧ ∀ a ∈ locBytes p.z p.l, s.writable a = true) :
    ∃ t, exec i s = .next t ∧ p.leaves t
      fun w d v r => r = d - v - BitVec.ofNat w (!s.flg.c).toNat ∧ showsDiff d v (!s.flg.c) t.flg :=
  exec_aluTo hexec hbody
    (rel := fun w d v r f => r = d - v - BitVec.ofNat w (!s.flg.c).toNat ∧ showsDiff d v (!s.flg.c) f)
    (aluSbb_shows s.flg) hread h

/-- An instruction that compares leaves the flags of the difference. -/
theorem exec_cmp (hexec : exec i s = sequential i body s) (hbody : body s = aluTest aluSub p.z p.v p.l p.s)
    (hread : Touches [] s p.s) (hi : i.wellFormed = true) :
    ∃ t, exec i s = .next t ∧ p.leaves t fun _ d v _ => showsDiff d v false t.flg :=
  exec_aluTest hexec hbody (rel := fun _ d v f => showsDiff d v false f) (fun w d v => (aluSub_shows s.flg w d v).2)
    hread hi

/-- An instruction that tests leaves S and Z of the conjunction. -/
theorem exec_tst (hexec : exec i s = sequential i body s) (hbody : body s = aluTest aluAnd p.z p.v p.l p.s)
    (hread : Touches [] s p.s) (hi : i.wellFormed = true) :
    ∃ t, exec i s = .next t ∧ p.leaves t fun _ d v _ => showsSZ (d &&& v) t.flg :=
  exec_aluTest hexec hbody (rel := fun _ d v f => showsSZ (d &&& v) f) (fun _ d v => setSZ_shows (d &&& v) s.flg)
    hread hi

end

/-! The arms of `exec` that read a source operand first. -/

theorem exec_addGSrc (sz : Size) (src dst : Operand) (s : State) :
    exec (.addGSrc sz src dst) s = execAddGSrc sz src dst s := rfl

theorem exec_adcSrc (sz : Size) (src dst : Operand) (s : State) :
    exec (.adcSrc sz src dst) s = execAdcSrc sz src dst s := rfl

theorem exec_subGSrc (sz : Size) (src dst : Operand) (s : State) :
    exec (.subGSrc sz src dst) s = execSubGSrc sz src dst s := rfl

theorem exec_sbbSrc (sz : Size) (src dst : Operand) (s : State) :
    exec (.sbbSrc sz src dst) s = execSbbSrc sz src dst s := rfl

theorem exec_cmpGSrc (sz : Size) (src dst : Operand) (s : State) :
    exec (.cmpGSrc sz src dst) s = execCmpGSrc sz src dst s := rfl

theorem exec_tstSrc (sz : Size) (src dst : Operand) (s : State) :
    exec (.tstSrc sz src dst) s = execTstSrc sz src dst s := rfl

theorem exec_addBSSrc (h : Half) (src : ShortSrc) (s : State) :
    exec (.addBSSrc h src) s = execAddBSSrc h src s := rfl

theorem exec_subBSSrc (h : Half) (src : ShortSrc) (s : State) :
    exec (.subBSSrc h src) s = execSubBSSrc h src s := rfl

theorem exec_cmpBSSrc (h : Half) (src : ShortSrc) (s : State) :
    exec (.cmpBSSrc h src) s = execCmpBSSrc h src s := rfl

/-- Settles O45: an immediate is read with the instruction, a source operand by `readLoc`; either way the destination
takes the sum. -/
theorem addResult : Obligations.AddResult :=
  ⟨fun v dst s h => exec_add (immTo v dst s) rfl rfl (.refl _ _) h,
   fun sz v dst s h => exec_add (quickTo sz v dst s) rfl rfl (.refl _ _) h,
   fun v dst s h => exec_add (shortImmTo v dst s) rfl rfl (.refl _ _) h,
   fun sz src dst s h => exec_add (srcTo sz src dst s) (exec_addGSrc sz src dst s) rfl (readLoc_touches _ _ _) h,
   fun hf src s h => exec_add (shortSrcTo hf src s) (exec_addBSSrc hf src s) rfl (readLoc_touches _ _ _) h,
   fun v dst s h => exec_adc (immTo v dst s) rfl rfl (.refl _ _) h,
   fun sz src dst s h => exec_adc (srcTo sz src dst s) (exec_adcSrc sz src dst s) rfl (readLoc_touches _ _ _) h⟩

/-- Settles O46: the same forms with the difference. -/
theorem subResult : Obligations.SubResult :=
  ⟨fun v dst s h => exec_sub (immTo v dst s) rfl rfl (.refl _ _) h,
   fun v dst s h => exec_sub (shortImmTo v dst s) rfl rfl (.refl _ _) h,
   fun sz src dst s h => exec_sub (srcTo sz src dst s) (exec_subGSrc sz src dst s) rfl (readLoc_touches _ _ _) h,
   fun hf src s h => exec_sub (shortSrcTo hf src s) (exec_subBSSrc hf src s) rfl (readLoc_touches _ _ _) h,
   fun v dst s h => exec_sbb (immTo v dst s) rfl rfl (.refl _ _) h,
   fun sz src dst s h => exec_sbb (srcTo sz src dst s) (exec_sbbSrc sz src dst s) rfl (readLoc_touches _ _ _) h⟩

/-- Settles O47: the same forms where only the flags change, so that nothing has to be storable. -/
theorem compareResult : Obligations.CompareResult :=
  ⟨fun v dst s h => exec_cmp (immTo v dst s) rfl rfl (.refl _ _) h,
   fun sz v dst s h => exec_cmp (quickTo sz v dst s) rfl rfl (.refl _ _) h,
   fun v dst s h => exec_cmp (shortImmTo v dst s) rfl rfl (.refl _ _) h,
   fun sz src dst s h => exec_cmp (srcTo sz src dst s) (exec_cmpGSrc sz src dst s) rfl (readLoc_touches _ _ _) h,
   fun hf src s h => exec_cmp (shortSrcTo hf src s) (exec_cmpBSSrc hf src s) rfl (readLoc_touches _ _ _) h,
   fun v dst s h => exec_tst (immTo v dst s) rfl rfl (.refl _ _) h,
   fun sz src dst s h => exec_tst (srcTo sz src dst s) (exec_tstSrc sz src dst s) rfl (readLoc_touches _ _ _) h⟩

end Sys2Proof.Machine
end

section
/-! PROOFS. What an instruction changes outside memory: registers, flags, `pc`, the marks the next boundary sees, and
the windows on the interrupt sources. One relation, `Effect`, carries all of it through the shared operations. -/

namespace Sys2Proof.Machine

/-! The parts of the state an instruction may change. -/

/-- A part of the state outside memory and the sources: a register, a flag, IPL, `pc`, and what marks the next
boundary. -/
inductive Part
  | reg (n : RegName)
  | flag (f : FlagName)
  | ipl
  | pc
  | shadow
  | prevI
  | iplOld

/-- The part is the same in both states; a banked register is the one of the bank that B selects in the first. -/
def Part.kept (s t : State) : Part → Prop
  | .reg n => t.regIn s.flg.b n = s.regIn s.flg.b n
  | .flag f => t.flg.get f = s.flg.get f
  | .ipl => t.flg.ipl = s.flg.ipl
  | .pc => t.pc = s.pc
  | .shadow => t.intShadow = s.intShadow
  | .prevI => t.prevI = s.prevI
  | .iplOld => t.iplOld = s.iplOld

/-- Registers and flags as parts. -/
def parts (r : List RegName) (f : List FlagName) : List Part := r.map .reg ++ f.map .flag

@[simp] theorem mem_parts {p : Part} {r : List RegName} {f : List FlagName} :
    p ∈ parts r f ↔ (∃ n ∈ r, p = .reg n) ∨ ∃ n ∈ f, p = .flag n := by simp [parts, eq_comm]

/-- What stores to the listed bytes do to the windows of a source: none of them leaves level and windows, and a single
one opens a window on the level before it (R613, R615). -/
structure Opened (n : Nat) (l : List Addr) (x y : Source) : Prop where
  icr : y.icr = x.icr
  kept : l.count x.icr = 0 → y.ilvl = x.ilvl ∧ y.old = x.old
  opened : l.count x.icr = 1 → ∃ ir, y.old = { level := x.ilvl, ir := ir, left := n + 1 } :: x.old

theorem Opened.refl {n : Nat} {l : List Addr} {x : Source} (h : l.count x.icr = 0) : Opened n l x x :=
  ⟨rfl, fun _ => ⟨rfl, rfl⟩, fun h1 => by omega⟩

theorem Opened.trans {n : Nat} {l m : List Addr} {x y z : Source} (h : Opened n l x y) (k : Opened n m y z) :
    Opened n (l ++ m) x z where
  icr := k.icr.trans h.icr
  kept h0 := by
    rw [List.count_append] at h0
    obtain ⟨hl, ho⟩ := h.kept (by omega)
    obtain ⟨kl, ko⟩ := k.kept (by rw [h.icr]; omega)
    exact ⟨kl.trans hl, ko.trans ho⟩
  opened h1 := by
    rw [List.count_append] at h1
    by_cases hm : m.count x.icr = 0
    · obtain ⟨ir, ho⟩ := h.opened (by omega)
      obtain ⟨-, ko⟩ := k.kept (by rw [h.icr]; exact hm)
      exact ⟨ir, ko.trans ho⟩
    · obtain ⟨hl, ho⟩ := h.kept (by omega)
      obtain ⟨ir, ko⟩ := k.opened (by rw [h.icr]; omega)
      exact ⟨ir, by rw [ko, hl, ho]⟩

/-- From `s` to `t` the listed bytes are stored to and at most the listed parts change; the other bank stays. -/
structure Effect (l : List Addr) (c : List Part) (s t : State) : Prop where
  keeps : Keeps l s t
  kept : ∀ p, p ∉ c → p.kept s t
  otherBank : t.bankNo (!s.flg.b) = s.bankNo (!s.flg.b)
  windows : ∀ (k : Nat) (x : Source), s.sources[k]? = some x →
    ∃ y : Source, t.sources[k]? = some y ∧ Opened s.product.storeWindow l x y

section
variable {l m : List Addr} {c d : List Part} {s t u : State}

/-- Sources that stay as they are have no window opened. -/
theorem windows_of_eq (h : t.sources = s.sources) (k : Nat) (x : Source) (hx : s.sources[k]? = some x) :
    ∃ y : Source, t.sources[k]? = some y ∧ Opened s.product.storeWindow [] x y :=
  ⟨x, h ▸ hx, .refl rfl⟩

theorem Effect.flag (h : Effect l c s t) {f : FlagName} (hf : .flag f ∉ c) : t.flg.get f = s.flg.get f :=
  h.kept _ hf

theorem Effect.mono (h : Effect l c s t) (hs : ∀ p ∈ c, p ∈ d) : Effect l d s t :=
  { h with kept := fun p hp => h.kept p fun hc => hp (hs p hc) }

/-- Effects in sequence, where the first one does not change the selected bank. -/
theorem Effect.trans (h : Effect l c s t) (k : Effect m d t u) (hb : .flag .b ∉ c) : Effect (l ++ m) (c ++ d) s u := by
  have hbank : t.flg.b = s.flg.b := h.flag hb
  refine ⟨h.keeps.trans k.keeps, fun p hp => ?_, ?_, fun j x hx => ?_⟩
  · simp only [List.mem_append, not_or] at hp
    have h1 := h.kept p hp.1
    have h2 := k.kept p hp.2
    cases p with
    | reg n => rw [Part.kept, hbank] at h2; exact h2.trans h1
    | _ => exact h2.trans h1
  · have h2 := k.otherBank
    rw [hbank] at h2
    exact h2.trans h.otherBank
  · obtain ⟨y, hy, o⟩ := h.windows j x hx
    obtain ⟨z, hz, o'⟩ := k.windows j y hy
    rw [h.keeps.product] at o'
    exact ⟨z, hz, o.trans o'⟩

/-- An effect that follows one that changes no part. -/
theorem Effect.after (h : Effect [] [] s t) (k : Effect l c t u) : Effect l c s u :=
  h.trans k (by simp)

/-- An effect that stores nothing, after another. -/
theorem Effect.then (h : Effect l c s t) (k : Effect [] d t u) (hb : .flag .b ∉ c) : Effect l (c ++ d) s u := by
  simpa using h.trans k hb

/-- An effect that follows another and changes no part. -/
theorem Effect.thenNone (h : Effect l c s t) (k : Effect [] [] t u) (hb : .flag .b ∉ c) : Effect l c s u := by
  simpa using h.then k hb

theorem Effect.spName (h : Effect l c s t) (hu : .flag .u ∉ c) : t.spName = s.spName := by
  have : t.flg.u = s.flg.u := h.flag hu
  simp [State.spName, this]

end

section
variable {l m : List Addr} {r r' : List RegName} {f f' : List FlagName} {s t u : State}

theorem Effect.widen (h : Effect l (parts r f) s t) (hr : ∀ n ∈ r, n ∈ r') (hf : ∀ n ∈ f, n ∈ f') :
    Effect l (parts r' f') s t := h.mono fun p hp => by
  rw [mem_parts] at hp ⊢
  rcases hp with ⟨n, hn, rfl⟩ | ⟨n, hn, rfl⟩
  · exact .inl ⟨n, hr n hn, rfl⟩
  · exact .inr ⟨n, hf n hn, rfl⟩

/-- Effects in sequence: the registers and the flags of both. -/
theorem Effect.transParts (h : Effect l (parts r f) s t) (k : Effect m (parts r' f') t u) (hb : .b ∉ f) :
    Effect (l ++ m) (parts (r ++ r') (f ++ f')) s u := (h.trans k (by simpa using hb)).mono fun p hp => by
  rcases List.mem_append.mp hp with hp | hp <;> cases p <;> simp_all

/-- The same where the second effect stores nothing. -/
theorem Effect.thenParts (h : Effect l (parts r f) s t) (k : Effect [] (parts r' f') t u) (hb : .b ∉ f) :
    Effect l (parts (r ++ r') (f ++ f')) s u := by simpa using h.transParts k hb

end

/-! Results: whatever state is reached, its effect is known. -/

/-- Where the operation goes on, it has the effect. -/
def Leaves (l : List Addr) (c : List Part) (s : State) (r : Result) : Prop := ∀ t, r = .next t → Effect l c s t

section
variable {l m : List Addr} {c d : List Part} {s t : State} {r : Result}

theorem Effect.leaves (h : Effect l c s t) : Leaves l c s (.next t) := by
  rintro _ ⟨⟩; exact h

/-- An operation that runs after something that changes no part. -/
theorem Leaves.after (h : Effect [] [] s t) (k : Leaves l c t r) : Leaves l c s r := fun u hu => h.after (k u hu)

/-- An operation that runs after something that stores nothing. -/
theorem Leaves.afterParts (h : Effect [] c s t) (k : Leaves l d t r) (hb : .flag .b ∉ c) : Leaves l (c ++ d) s r :=
  fun u hu => h.trans (k u hu) hb

theorem Leaves.then {f : State → Result} (h : Leaves l c s r)
    (k : ∀ t, r = .next t → Effect l c s t → Leaves m d t (f t)) (hb : .flag .b ∉ c) :
    Leaves (l ++ m) (c ++ d) s (andThen r f) := by
  intro u hu
  obtain ⟨t, ht, hu⟩ := andThen_eq_next.mp hu
  exact (h t ht).trans (k t ht (h t ht) u hu) hb

/-- An operation followed by something that always goes on and stores nothing. -/
theorem Leaves.next {f : State → State} (h : Leaves l c s r) (k : ∀ t, Effect l c s t → Effect [] d t (f t))
    (hb : .flag .b ∉ c) : Leaves l (c ++ d) s (andThen r fun t => .next (f t)) := by
  simpa using h.then (m := []) (fun t _ ht => (k t ht).leaves) hb

end

section
variable {l m : List Addr} {r r' : List RegName} {f f' : List FlagName} {s t : State} {res : Result}

theorem Leaves.widen (h : Leaves l (parts r f) s res) (hr : ∀ n ∈ r, n ∈ r') (hf : ∀ n ∈ f, n ∈ f') :
    Leaves l (parts r' f') s res := fun t ht => (h t ht).widen hr hf

theorem Leaves.thenParts {g : State → Result} (h : Leaves l (parts r f) s res)
    (k : ∀ t, res = .next t → Effect l (parts r f) s t → Leaves m (parts r' f') t (g t)) (hb : .b ∉ f) :
    Leaves (l ++ m) (parts (r ++ r') (f ++ f')) s (andThen res g) := by
  intro u hu
  obtain ⟨t, ht, hu⟩ := andThen_eq_next.mp hu
  exact (h t ht).transParts (k t ht (h t ht) u hu) hb

theorem Leaves.nextParts {g : State → State} (h : Leaves l (parts r f) s res)
    (k : ∀ t, Effect l (parts r f) s t → Effect [] (parts r' f') t (g t)) (hb : .b ∉ f) :
    Leaves l (parts (r ++ r') (f ++ f')) s (andThen res fun t => .next (g t)) := by
  simpa using h.thenParts (m := []) (fun t _ ht => (k t ht).leaves) hb

end

/-! Register updates. -/

/-- An update that leaves memory, the sources and the registers alone changes nothing but the marks listed. -/
theorem Effect.ofRegs {c : List Part} {s t : State} (hk : Keeps [] s t) (hs : t.sources = s.sources)
    (hb : t.bankNo (!s.flg.b) = s.bankNo (!s.flg.b)) (hp : ∀ p, p ∉ c → p.kept s t) : Effect [] c s t :=
  ⟨hk, hp, hb, windows_of_eq hs⟩

theorem Effect.refl (s : State) : Effect [] [] s s :=
  .ofRegs (Keeps.refl s) rfl rfl fun p _ => by cases p <;> rfl

/-- The parts listed for a flag computation are the only flags it changes. -/
structure FlagsKept (fl : List FlagName) (f g : Flg) : Prop where
  get : ∀ n, n ∉ fl → g.get n = f.get n
  ipl : g.ipl = f.ipl

theorem setFlg_effect {fl : List FlagName} {s : State} {f : Flg} (h : FlagsKept fl s.flg f) :
    Effect [] (parts [] fl) s (s.setFlg f) := by
  refine .ofRegs (setFlg_keeps s f) rfl rfl fun p hp => ?_
  cases p with
  | flag n => exact h.get n (by simpa using hp)
  | ipl => exact h.ipl
  | _ => rfl

@[simp] theorem State.bankNo_selected (s : State) : s.bankNo s.flg.b = s.bank := rfl

@[simp] theorem State.setBank_bankNo_selected (s : State) (k : Bank) : (s.setBank k).bankNo s.flg.b = k :=
  State.setBank_bank s k

@[simp] theorem State.setBank_bankNo_other (s : State) (k : Bank) :
    (s.setBank k).bankNo (!s.flg.b) = s.bankNo (!s.flg.b) := by
  cases h : s.flg.b <;> simp [State.bankNo, State.setBank, h]

/-- A replaced bank changes the registers in which it differs. -/
theorem setBank_effect {r : List RegName} {s : State} {k : Bank}
    (h : ∀ n, n ∉ r → (s.setBank k).regIn s.flg.b n = s.regIn s.flg.b n) :
    Effect [] (parts r []) s (s.setBank k) := by
  refine .ofRegs (setBank_keeps s k) rfl (State.setBank_bankNo_other s k) fun p hp => ?_
  cases p with
  | reg n => exact h n (by simpa using hp)
  | _ => rfl

theorem setAreg_effect (s : State) (a : AReg) (v : Word) : Effect [] (parts [aregName a] []) s (s.setAreg a v) := by
  cases a <;> exact setBank_effect fun n hn => by cases n <;> simp_all [State.regIn, aregName]

theorem setDreg16_effect (s : State) (r : DReg) (v : Word) :
    Effect [] (parts (operandRegs .w (.data r)) []) s (s.setDreg16 r v) := by
  cases r <;> exact setBank_effect fun n hn => by cases n <;> simp_all [State.regIn, operandRegs]

theorem setDreg8_effect (s : State) (r : DReg) (v : Byte) :
    Effect [] (parts (operandRegs .b (.data r)) []) s (s.setDreg8 r v) := by
  cases r <;> exact setBank_effect fun n hn => by cases n <;> simp_all [State.regIn, operandRegs]

theorem setReg16_effect (s : State) (r : Reg16) (v : Word) :
    Effect [] (parts (reg16Names r) []) s (s.setReg16 r v) := by
  cases r <;> exact setBank_effect fun n hn => by cases n <;> simp_all [State.regIn, reg16Names]

theorem setPair_effect (s : State) (p : Pair) (v : BitVec 32) :
    Effect [] (parts (pairNames p) []) s (s.setPair p v) := by
  cases p <;> exact setBank_effect fun n hn => by cases n <;> simp_all [State.regIn, pairNames]

theorem setFb_effect (s : State) (v : Word) : Effect [] (parts [.fb] []) s (s.setFb v) :=
  setBank_effect fun n hn => by cases n <;> simp_all [State.regIn]

/-! Other registers, and the program counter. -/

/-- An update that leaves memory, the sources and both banks alone. -/
theorem Effect.ofUnbanked {c : List Part} {s t : State} (hk : Keeps [] s t) (hs : t.sources = s.sources)
    (h0 : t.bank0 = s.bank0) (h1 : t.bank1 = s.bank1) (hp : ∀ p, p ∉ c → p.kept s t) : Effect [] c s t :=
  .ofRegs hk hs (by simp [State.bankNo, h0, h1]) hp

/-- An update that changes no register in either bank, after any effect: what it marks stands in front. -/
theorem Effect.mark {l : List Addr} {c m : List Part} {s t u : State} (h : Effect l c s t) (k : Effect [] m t u)
    (hr : ∀ one n, u.regIn one n = t.regIn one n) (hb : ∀ one, u.bankNo one = t.bankNo one) :
    Effect l (m ++ c) s u where
  keeps := by simpa using h.keeps.trans k.keeps
  kept p hp := by
    simp only [List.mem_append, not_or] at hp
    have h1 := h.kept p hp.2
    have h2 := k.kept p hp.1
    cases p with
    | reg n => exact (hr _ n).trans h1
    | _ => exact h2.trans h1
  otherBank := (hb _).trans h.otherBank
  windows j x hx := by
    obtain ⟨y, hy, o⟩ := h.windows j x hx
    obtain ⟨z, hz, o'⟩ := k.windows j y hy
    rw [h.keeps.product] at o'
    exact ⟨z, hz, by simpa using o.trans o'⟩

theorem setSp_effect (s : State) (v : Word) : Effect [] (parts [s.spName] []) s (s.setSp v) := by
  refine .ofUnbanked (setSp_keeps s v) rfl rfl rfl fun p hp => ?_
  cases p with
  | reg n => cases hu : s.flg.u <;> cases n <;> simp_all [Part.kept, State.regIn, State.bankNo, State.spName]
  | _ => rfl

theorem jump_effect (s : State) (a : Addr) : Effect [] [.pc] s (s.jump a) :=
  .ofUnbanked (jump_keeps s a) rfl rfl rfl fun p hp => by
    cases p with
    | pc => simp at hp
    | _ => rfl

theorem advance_effect (s : State) (n : Nat) : Effect [] [.pc] s (s.advance n) :=
  .ofUnbanked (advance_keeps s n) rfl rfl rfl fun p hp => by
    cases p with
    | pc => simp at hp
    | _ => rfl

theorem Effect.jump {l : List Addr} {c : List Part} {s t : State} (h : Effect l c s t) (a : Addr) :
    Effect l ([.pc] ++ c) s (t.jump a) := h.mark (jump_effect t a) (fun _ _ => rfl) fun _ => rfl

theorem Effect.advance {l : List Addr} {c : List Part} {s t : State} (h : Effect l c s t) (n : Nat) :
    Effect l ([.pc] ++ c) s (t.advance n) := h.mark (advance_effect t n) (fun _ _ => rfl) fun _ => rfl

theorem stay_effect (s : State) (n : Nat) : Effect [] [] s (s.stay n) :=
  .ofUnbanked (stay_keeps s n) rfl rfl rfl fun p _ => by cases p <;> rfl

theorem Effect.draws {l : List Addr} {c : List Part} {s t : State} (h : Effect l c s t) (n : Nat) :
    Effect l c s { t with draws := n } :=
  { h with
    keeps := by simpa using h.keeps.trans (draws_keeps t n)
    kept := fun p hp => by cases p <;> exact h.kept _ hp
    otherBank := h.otherBank
    windows := h.windows }

theorem draws_effect (s : State) (n : Nat) : Effect [] [] s { s with draws := n } :=
  .ofUnbanked (draws_keeps s n) rfl rfl rfl fun p _ => by cases p <;> rfl

theorem waiting_effect (s : State) (w : Bool) : Effect [] [] s { s with waiting := w } :=
  .ofUnbanked ⟨fun _ _ => rfl, id, rfl, rfl, rfl, rfl, rfl, [], rfl⟩ rfl rfl rfl fun p _ => by cases p <;> rfl

theorem openIpl_effect (s : State) (n : Nat) : Effect [] [.iplOld] s (s.openIpl n) :=
  .ofUnbanked (openIpl_keeps s n) rfl rfl rfl fun p hp => by
    cases p with
    | iplOld => simp at hp
    | _ => rfl

theorem setSb_effect (s : State) (v : Word) : Effect [] (parts [.sb] []) s { s with sb := v } :=
  .ofUnbanked ⟨fun _ _ => rfl, id, rfl, rfl, rfl, rfl, rfl, [], rfl⟩ rfl rfl rfl fun p hp => by
    cases p with
    | reg n => cases n <;> simp_all [Part.kept, State.regIn, State.bankNo]
    | _ => rfl

theorem setIntb_effect (s : State) (v : Addr) : Effect [] (parts [.intb] []) s { s with intb := v } :=
  .ofUnbanked ⟨fun _ _ => rfl, id, rfl, rfl, rfl, rfl, rfl, [], rfl⟩ rfl rfl rfl fun p hp => by
    cases p with
    | reg n => cases n <;> simp_all [Part.kept, State.regIn, State.bankNo]
    | _ => rfl

theorem setIsp_effect (s : State) (v : Word) : Effect [] (parts [.isp] []) s { s with isp := v } :=
  .ofUnbanked ⟨fun _ _ => rfl, id, rfl, rfl, rfl, rfl, rfl, [], rfl⟩ rfl rfl rfl fun p hp => by
    cases p with
    | reg n => cases n <;> simp_all [Part.kept, State.regIn, State.bankNo]
    | _ => rfl

/-! Reads. -/

/-- What only touches memory and the sources changes no part. -/
theorem Touches.effect {l : List Addr} {s t : State} (h : Touches l s t)
    (hw : ∀ (k : Nat) (x : Source), s.sources[k]? = some x →
      ∃ y : Source, t.sources[k]? = some y ∧ Opened s.product.storeWindow l x y) : Effect l [] s t where
  keeps := h.keeps
  kept p _ := by rw [h.rest]; cases p <;> rfl
  otherBank := by rw [h.rest]; rfl
  windows := hw

theorem record_effect (d : Direction) (a : Addr) (n : Nat) (v : BitVec 32) (s : State) :
    Effect [] [] s (s.record d a n v) := (record_touches d a n v s).effect (windows_of_eq rfl)

/-- Clearing a request bit leaves level and windows. -/
theorem clearIrAt_source {k j : Nat} {l : List Source} {x : Source} (h : l[j]? = some x) :
    ∃ ir, (clearIrAt k l)[j]? = some { x with ir := ir } := by
  induction l generalizing k j with
  | nil => simp at h
  | cons z l ih =>
    cases k with
    | zero =>
      cases j with
      | zero => cases h; exact ⟨false, rfl⟩
      | succ j => exact ⟨x.ir, h⟩
    | succ k =>
      cases j with
      | zero => cases h; exact ⟨_, rfl⟩
      | succ j => exact ih h

/-- Raising a request bit leaves level and windows. -/
theorem raiseAt_source {a : Addr} {b : Bool} {j : Nat} {l : List Source} {x : Source} (h : l[j]? = some x) :
    ∃ ir, (raiseAt a b l)[j]? = some { x with ir := ir } := by
  induction l generalizing j with
  | nil => simp at h
  | cons z l ih =>
    unfold raiseAt
    split
    · cases j with
      | zero => cases h; exact ⟨_, rfl⟩
      | succ j => exact ⟨x.ir, h⟩
    · cases j with
      | zero => cases h; exact ⟨_, rfl⟩
      | succ j => exact ih h

/-- One byte read changes at most the request bit of a source. -/
theorem busRead_source {a : Addr} {s : State} {j : Nat} {x : Source} (h : s.sources[j]? = some x) :
    ∃ ir, (busRead a s).2.sources[j]? = some { x with ir := ir } := by
  simp only [busRead, clearBest]
  split
  · split
    · exact clearIrAt_source h
    · exact ⟨x.ir, h⟩
  · exact raiseAt_source h

theorem busRead_effect (a : Addr) (s : State) : Effect [] [] s (busRead a s).2 :=
  (busRead_touches a s).effect fun j x hx => by
    obtain ⟨ir, hy⟩ := busRead_source (a := a) hx
    exact ⟨_, hy, rfl, fun _ => ⟨rfl, rfl⟩, fun h => by simp at h⟩

theorem busReadWord_effect (a : Addr) (s : State) : Effect [] [] s (busReadWord a s).2 :=
  (busRead_effect a s).after (busRead_effect (a + 1) _)

theorem recordRead_effect {w : Nat} {a : Addr} {n : Nat} {s : State} {r : BitVec w × State}
    (h : Effect [] [] s r.2) : Effect [] [] s (recordRead a n r).2 := h.after (record_effect ..)

theorem readByte_effect (a : Addr) (s : State) : Effect [] [] s (readByte a s).2 :=
  recordRead_effect (busRead_effect a s)

theorem readWord_effect (a : Addr) (s : State) : Effect [] [] s (readWord a s).2 :=
  recordRead_effect (busReadWord_effect a s)

theorem read24_effect (a : Addr) (s : State) : Effect [] [] s (read24 a s).2 := by
  simp only [read24]
  exact recordRead_effect ((busReadWord_effect a s).after (busRead_effect (a + 2) _))

theorem read32_effect (a : Addr) (s : State) : Effect [] [] s (read32 a s).2 := by
  have h := (busReadWord_effect a s).after (busReadWord_effect (a + 2) _)
  simp only [read32, recordRead]
  exact h.after (record_effect ..)

theorem readMem_effect (z : Size) (a : Addr) (s : State) : Effect [] [] s (readMem z a s).2 := by
  cases z
  · exact readByte_effect a s
  · exact readWord_effect a s

theorem readLoc_effect (z : Size) (l : Loc) (s : State) : Effect [] [] s (readLoc z l s).2 := by
  cases l with
  | data r => cases z <;> exact Effect.refl s
  | addr a => cases z <;> exact Effect.refl s
  | mem a => cases z <;> exact readMem_effect _ a s

theorem pop8_effect (s : State) : Effect [] (parts [s.spName] []) s (pop8 s).2 :=
  (readByte_effect (near s.sp) s).after (setSp_effect (readByte (near s.sp) s).2 (s.sp + 1))

theorem pop16_effect (s : State) : Effect [] (parts [s.spName] []) s (pop16 s).2 :=
  (readWord_effect (near s.sp) s).after (setSp_effect (readWord (near s.sp) s).2 (s.sp + 2))

/-! Writes. -/

/-- A store opens a window on the source whose register it is, and leaves the others. -/
theorem storeIcr_opened (a : Addr) (v : Byte) (keep : Bool) (n : Nat) (x : Source) :
    Opened n [a] x (storeIcr a v keep n x) := by
  unfold storeIcr
  split
  · next h => exact ⟨rfl, fun h0 => by simp [h] at h0, fun _ => ⟨x.ir, rfl⟩⟩
  · next h => exact .refl (by simp [Ne.symm h])

theorem busWrite_leaves (k : StoreKind) (a : Addr) (v : Byte) (s : State) : Leaves [a] [] s (busWrite k a v s) := by
  unfold busWrite
  split
  · rintro _ ⟨⟩
  · split
    · rintro _ ⟨⟩
    · exact Effect.leaves ((stored_touches k a v s).effect fun j x hx =>
        ⟨_, by simp only [stored, List.getElem?_map, hx, Option.map_some]; rfl, storeIcr_opened ..⟩)

theorem busWriteWord_leaves (k : StoreKind) (a : Addr) (v : Word) (s : State) :
    Leaves [a, a + 1] [] s (busWriteWord k a v s) :=
  (busWrite_leaves k a _ s).then (m := [a + 1]) (d := []) (fun t _ _ => busWrite_leaves k (a + 1) _ t) (by simp)

theorem recordWrite_leaves {w : Nat} {l : List Addr} {c : List Part} {s : State} {r : Result} (a : Addr) (n : Nat)
    (v : BitVec w) (h : Leaves l c s r) (hb : .flag .b ∉ c) : Leaves l c s (recordWrite a n v r) := by
  simpa [recordWrite] using h.next (d := []) (fun t _ => record_effect .write a n (v.setWidth 32) t) hb

theorem writeByte_leaves (k : StoreKind) (a : Addr) (v : Byte) (s : State) : Leaves [a] [] s (writeByte k a v s) :=
  recordWrite_leaves a 1 v (busWrite_leaves k a v s) (by simp)

theorem writeWord_leaves (k : StoreKind) (a : Addr) (v : Word) (s : State) :
    Leaves [a, a + 1] [] s (writeWord k a v s) :=
  recordWrite_leaves a 2 v (busWriteWord_leaves k a v s) (by simp)

theorem write24_leaves (k : StoreKind) (a : Addr) (v : BitVec 24) (s : State) :
    Leaves [a, a + 1, a + 2] [] s (write24 k a v s) :=
  recordWrite_leaves a 3 v ((busWriteWord_leaves k a _ s).then (m := [a + 2]) (d := [])
    (fun t _ _ => busWrite_leaves k (a + 2) _ t) (by simp)) (by simp)

theorem write32_leaves (k : StoreKind) (a : Addr) (v : BitVec 32) (s : State) :
    Leaves [a, a + 1, a + 2, a + 2 + 1] [] s (write32 k a v s) :=
  recordWrite_leaves a 4 v ((busWriteWord_leaves k a _ s).then (m := [a + 2, a + 2 + 1]) (d := [])
    (fun t _ _ => busWriteWord_leaves k (a + 2) _ t) (by simp)) (by simp)

theorem writeMem_leaves (k : StoreKind) (z : Size) (a : Addr) (v : BitVec (Size.bits z)) (s : State) :
    Leaves (sizeAt z a) [] s (writeMem k z a v s) := by
  cases z
  · exact writeByte_leaves k a v s
  · exact writeWord_leaves k a v s

/-- Names of the register a location is. -/
def locRegs : Size → Loc → List RegName
  | z, .data r => operandRegs z (.data r)
  | _, .addr a => [aregName a]
  | _, .mem _ => []

@[simp] theorem locRegs_loc (z : Size) (o : Operand) (s : State) : locRegs z (s.loc o) = operandRegs z o := by
  cases o <;> cases z <;> rfl

@[simp] theorem locRegs_shortLoc (d : ShortDest) (s : State) : locRegs .b (s.shortLoc d) = shortRegs d := by
  cases d with
  | half h => cases h <;> rfl
  | mem m => rfl

theorem writeLoc_leaves (k : StoreKind) (z : Size) (l : Loc) (v : BitVec (Size.bits z)) (s : State) :
    Leaves (locBytes z l) (parts (locRegs z l) []) s (writeLoc k z l v s) := by
  cases z <;> cases l
  case b.data r => exact (setDreg8_effect s r v).leaves
  case w.data r => exact (setDreg16_effect s r v).leaves
  case b.addr a => exact (setAreg_effect s a _).leaves
  case w.addr a => exact (setAreg_effect s a v).leaves
  case b.mem a => exact writeByte_leaves k a v s
  case w.mem a => exact writeWord_leaves k a v s

theorem push8_leaves (v : Byte) (s : State) : Leaves (sizeAt .b (pushAt .b s.sp)) (parts [s.spName] []) s (push8 v s) :=
  .afterParts (setSp_effect s (s.sp - 1)) (writeByte_leaves .other _ v _) (by simp)

theorem push16_leaves (v : Word) (s : State) :
    Leaves (sizeAt .w (pushAt .w s.sp)) (parts [s.spName] []) s (push16 v s) :=
  .afterParts (setSp_effect s (s.sp - 2)) (writeWord_leaves .other _ v _) (by simp)

/-! Flag computations. -/

theorem setSZ_kept {w : Nat} (v : BitVec w) (f : Flg) : FlagsKept [.s, .z] f (setSZ v f) :=
  ⟨fun n hn => by cases n <;> simp_all [Flg.get, setSZ], rfl⟩

theorem addFlags_kept {w : Nat} (a b : BitVec w) (c : Bool) (f : Flg) :
    FlagsKept [.o, .s, .z, .c] f (addFlags a b c f).2 :=
  ⟨fun n hn => by cases n <;> simp_all [Flg.get, addFlags, setSZ], rfl⟩

theorem subFlags_kept {w : Nat} (a b : BitVec w) (c : Bool) (f : Flg) :
    FlagsKept [.o, .s, .z, .c] f (subFlags a b c f).2 :=
  ⟨fun n hn => by cases n <;> simp_all [Flg.get, subFlags, setSZ], rfl⟩

theorem unAbs_kept (anyC : Bool) (w : Nat) (d : BitVec w) (f : Flg) :
    FlagsKept [.o, .s, .z, .c] f (unAbs anyC w d f).2 :=
  ⟨fun n hn => by cases n <;> simp_all [Flg.get, unAbs, setSZ], rfl⟩

theorem unRolc_kept (w : Nat) (d : BitVec w) (f : Flg) : FlagsKept [.s, .z, .c] f (unRolc w d f).2 :=
  ⟨fun n hn => by cases n <;> simp_all [Flg.get, unRolc, setSZ], rfl⟩

theorem unRorc_kept (w : Nat) (d : BitVec w) (f : Flg) : FlagsKept [.s, .z, .c] f (unRorc w d f).2 :=
  ⟨fun n hn => by cases n <;> simp_all [Flg.get, unRorc, setSZ], rfl⟩

/-- The flags of a shift by kind: only `SHA` changes O (R304, R306, R310). -/
def shiftedFlags : ShiftKind → List FlagName
  | .arith => [.o, .s, .z, .c]
  | _ => [.s, .z, .c]

theorem shiftFlags_kept (k : ShiftKind) (left : Bool) (n w : Nat) (d : BitVec w) (f : Flg) :
    FlagsKept (shiftedFlags k) f (shiftFlags k left n w d f).2 :=
  ⟨fun n hn => by cases k <;> cases n <;> simp_all [Flg.get, shiftFlags, setSZ, shiftedFlags], rfl⟩

theorem anyShiftFlags_kept (k : ShiftKind) (n : Nat) (f : Flg) :
    FlagsKept (shiftedFlags k) f (anyShiftFlags k n f) :=
  ⟨fun n hn => by cases k <;> cases n <;> simp_all [Flg.get, anyShiftFlags, shiftedFlags], rfl⟩

theorem anySZC_kept (n : Nat) (f : Flg) : FlagsKept [.s, .z, .c] f (anySZC n f) :=
  ⟨fun n hn => by cases n <;> simp_all [Flg.get, anySZC], rfl⟩

theorem shiftFlagsL_kept (k : ShiftKind) (left : Bool) (n : Nat) (z c : Bool) (d : BitVec 32) (f : Flg) :
    FlagsKept [.s, .z, .c] f (shiftFlagsL k left n z c d f).2 :=
  ⟨fun n hn => by cases n <;> simp_all [Flg.get, shiftFlagsL], rfl⟩

theorem flagC_kept (f : Flg) (c : Bool) : FlagsKept [.c] f { f with c := c } :=
  ⟨fun n hn => by cases n <;> simp_all [Flg.get], rfl⟩

theorem flagO_kept (f : Flg) (o : Bool) : FlagsKept [.o] f { f with o := o } :=
  ⟨fun n hn => by cases n <;> simp_all [Flg.get], rfl⟩

theorem flagsZC_kept (f : Flg) (z c : Bool) : FlagsKept [.z, .c] f { f with z := z, c := c } :=
  ⟨fun n hn => by cases n <;> simp_all [Flg.get], rfl⟩

theorem seqFlags_kept (clearU : Bool) (f : Flg) :
    FlagsKept (if clearU then [.u, .i, .d] else [.i, .d]) f (seqFlags clearU f) :=
  ⟨fun n hn => by cases clearU <;> cases n <;> simp_all [Flg.get, seqFlags], rfl⟩

theorem put_kept (f : Flg) (n : FlagName) (v : Bool) : FlagsKept [n] f (f.put n v) :=
  ⟨fun m hm => by cases n <;> cases m <;> simp_all [Flg.get, Flg.put], by cases n <;> rfl⟩

theorem decArith_kept {sub : Bool} {n w : Nat} {d v r : BitVec w} {cin : Bool} {f g : Flg}
    (h : decArith sub n d v cin f = some (r, g)) : FlagsKept [.s, .z, .c] f g := by
  unfold decArith at h
  split at h
  · cases h
    exact ⟨fun n hn => by cases n <;> simp_all [Flg.get, setSZ], rfl⟩
  · cases h

/-! Operands. -/

section
variable {fl : List FlagName} {r : List RegName} {l : List Addr} {s t : State}

/-- FLG first, then registers. -/
theorem Effect.afterFlags {f : Flg} (h : FlagsKept fl s.flg f) (hb : .b ∉ fl)
    (k : Effect l (parts r []) (s.setFlg f) t) : Effect l (parts r fl) s t :=
  ((setFlg_effect h).transParts k hb).widen (by simp) (by simp)

theorem Leaves.afterFlags {f : Flg} {res : Result} (h : FlagsKept fl s.flg f) (hb : .b ∉ fl)
    (k : Leaves l (parts r []) (s.setFlg f) res) : Leaves l (parts r fl) s res :=
  fun t ht => .afterFlags h hb (k t ht)

end

section
variable {fl : List FlagName} (s : State) (z : Size) (l : Loc)

theorem aluTo_leaves {op : AluOp} (hop : ∀ w d v f, FlagsKept fl f (op w d v f).2) (hb : .b ∉ fl)
    (v : BitVec (Size.bits z)) : Leaves (locBytes z l) (parts (locRegs z l) fl) s (aluTo op z v l s) := by
  cases z <;> cases l
  case b.addr a => exact Effect.leaves (.afterFlags (hop ..) hb (setAreg_effect _ a _))
  all_goals exact .after (readLoc_effect ..) (.afterFlags (hop ..) hb (writeLoc_leaves .other _ _ _ _))

theorem aluTest_leaves {op : AluOp} (hop : ∀ w d v f, FlagsKept fl f (op w d v f).2) (v : BitVec (Size.bits z)) :
    Leaves [] (parts [] fl) s (aluTest op z v l s) := by
  cases z <;> cases l
  case b.addr a => exact (setFlg_effect (hop ..)).leaves
  all_goals exact Effect.leaves (.after (readLoc_effect ..) (setFlg_effect (hop ..)))

theorem unaryTo_leaves {op : UnaryOp} (hop : ∀ w d f, FlagsKept fl f (op w d f).2) (hb : .b ∉ fl) :
    Leaves (locBytes z l) (parts (locRegs z l) fl) s (unaryTo op z l s) :=
  .after (readLoc_effect ..) (.afterFlags (hop ..) hb (writeLoc_leaves .other _ _ _ _))

theorem moveTo_leaves (k : StoreKind) (v : BitVec (Size.bits z)) :
    Leaves (locBytes z l) (parts (locRegs z l) [.s, .z]) s (moveTo k z v l s) := by
  cases z <;> cases l
  case b.addr a => exact Effect.leaves (.afterFlags (setSZ_kept ..) (by simp) (setAreg_effect _ a _))
  all_goals exact .afterFlags (setSZ_kept ..) (by simp) (writeLoc_leaves k _ _ _ _)

end

theorem withSrc_leaves {z : Size} {src dst : Loc} {f : BitVec (Size.bits z) → Loc → State → Result} {l : List Addr}
    {c : List Part} (s : State) (h : ∀ v t, Leaves l c t (f v dst t)) : Leaves l c s (withSrc z src dst f s) :=
  .after (readLoc_effect z src s) (h _ _)

theorem steTo_leaves (z : Size) (src : Operand) (far : Addr) (s : State) :
    Leaves (sizeAt z far) (parts [] [.s, .z]) s (steTo z src far s) := by
  refine .after (readLoc_effect z (s.loc src) s) (.afterFlags (r := []) ?_ (by simp) (writeMem_leaves .other z far _ _))
  split <;> exact setSZ_kept _ _

theorem ldeFrom_leaves (z : Size) (far : Addr) (dst : Operand) (s : State) :
    Leaves (locBytes z (s.loc dst)) (parts (operandRegs z dst) [.s, .z]) s (ldeFrom z far dst s) := by
  have h := moveTo_leaves (readMem z far s).2 z (s.loc dst) .other (readMem z far s).1
  rw [locRegs_loc] at h
  exact .after (readMem_effect z far s) h

theorem xchgWith_leaves (z : Size) (r : DReg) (l : Loc) (s : State) :
    Leaves (locBytes z l) (parts (locRegs z l ++ operandRegs z (.data r)) []) s (xchgWith z r l s) := by
  cases z <;> cases l
  case b.addr a =>
    exact ((setAreg_effect s a _).thenParts (setDreg8_effect _ r _) (by simp)).leaves
  case w.data | w.addr | w.mem =>
    refine .after (readLoc_effect ..) ((writeLoc_leaves .other _ _ _ _).nextParts
      (fun t _ => setDreg16_effect t r _) (by simp))
  all_goals
    refine .after (readLoc_effect ..) ((writeLoc_leaves .other _ _ _ _).nextParts
      (fun t _ => setDreg8_effect t r _) (by simp))

/-! Bits. -/

/-- Names of the register a bit location is in. -/
def bitLocRegs : BitLoc → List RegName
  | .reg r _ => reg16Names r
  | .mem _ _ => []

@[simp] theorem bitLocRegs_bitLoc (o : BitOp) (s : State) : bitLocRegs (s.bitLoc o) = bitRegs o := by cases o <;> rfl

theorem bitTest_leaves {fl : List FlagName} {f : Bool → Flg → Flg} (hf : ∀ b g, FlagsKept fl g (f b g)) (l : BitLoc)
    (s : State) : Leaves [] (parts [] fl) s (bitTest l f s) := by
  cases l with
  | reg r n => exact (setFlg_effect (hf ..)).leaves
  | mem a n => exact ((readByte_effect a s).after (setFlg_effect (hf ..))).leaves

theorem bitModify_leaves {fl : List FlagName} {f : Bool → Flg → Flg} (hf : ∀ b g, FlagsKept fl g (f b g))
    (hb : .b ∉ fl) (new : Bool → Bool) (l : BitLoc) (s : State) :
    Leaves (bitBytes l) (parts (bitLocRegs l) fl) s (bitModify l new f s) := by
  cases l with
  | reg r n => exact Effect.leaves (.afterFlags (hf ..) hb (setReg16_effect _ r _))
  | mem a n => exact .after (readByte_effect a s) (.afterFlags (r := []) (hf ..) hb (writeByte_leaves .other a _ _))

theorem bitNoFlags_kept (b : Bool) (f : Flg) : FlagsKept [] f (bitNoFlags b f) := ⟨fun _ _ => rfl, rfl⟩

theorem bitToC_kept (op : Bool → Bool → Bool) (b : Bool) (f : Flg) : FlagsKept [.c] f (bitToC op b f) := flagC_kept f _

theorem bitToZC_kept (b : Bool) (f : Flg) : FlagsKept [.z, .c] f (bitToZC b f) := flagsZC_kept f _ _

theorem bitToZCInv_kept (b : Bool) (f : Flg) : FlagsKept [.z, .c] f (bitToZCInv b f) := flagsZC_kept f _ _

/-! Shifts. -/

theorem b_notMem_shiftedFlags (k : ShiftKind) : FlagName.b ∉ shiftedFlags k := by cases k <;> decide

theorem shiftUndefined_leaves (k : ShiftKind) (z : Size) (l : Loc) (s : State) :
    Leaves (locBytes z l) (parts (locRegs z l) (shiftedFlags k)) s (shiftUndefined k z l s) :=
  let d := (readLoc z l s).2
  .after ((readLoc_effect z l s).after (draws_effect d (d.draws + 5)))
    (.afterFlags (anyShiftFlags_kept k (d.draws + 1) d.flg) (b_notMem_shiftedFlags k)
      (writeLoc_leaves .other z l _ _))

theorem shiftByR1H_leaves (k : ShiftKind) (z : Size) (l : Loc) (s : State) :
    Leaves (if s.count = 0#8 then [] else locBytes z l) (parts (locRegs z l) (shiftedFlags k)) s
      (shiftByR1H k z l s) := by
  unfold shiftByR1H
  split
  · exact ((Effect.refl s).mono (by simp)).leaves
  · split
    · exact shiftUndefined_leaves k z l s
    · exact unaryTo_leaves s z l (shiftFlags_kept k _ _) (b_notMem_shiftedFlags k)

/-- A pair, then flags, then the draws. -/
theorem setPairFlags_effect {fl : List FlagName} {p : Pair} {v : BitVec 32} {s : State} {f : Flg} (n : Nat)
    (h : FlagsKept fl s.flg f) : Effect [] (parts (pairNames p) fl) s { (s.setPair p v).setFlg f with draws := n } := by
  have hf : FlagsKept fl (s.setPair p v).flg f := by simpa using h
  have hp := (setPair_effect s p v).thenParts (setFlg_effect hf) (by simp)
  simp only [List.append_nil, List.nil_append] at hp
  exact hp.draws n

theorem shiftLong_effect (k : ShiftKind) (cnt : Bool × Nat) (p : DPair) (s : State) :
    Effect [] (parts (pairNames (dpairPair p)) [.s, .z, .c]) s (shiftLong k cnt p s) :=
  setPairFlags_effect _ (shiftFlagsL_kept ..)

theorem shiftLongByR1H_effect (k : ShiftKind) (p : DPair) (s : State) :
    Effect [] (parts (pairNames (dpairPair p)) [.s, .z, .c]) s (shiftLongByR1H k p s) := by
  unfold shiftLongByR1H
  split
  · exact (Effect.refl s).mono (by simp)
  · split
    · exact setPairFlags_effect _ (anyShiftFlags_kept .logical _ _)
    · exact shiftLong_effect k _ p s

/-! Decimal operations, products and quotients. -/

theorem decByte_effect (sub : Bool) (v : Byte) (cin : Bool) (s : State) :
    Effect [] (parts [.r0l] [.s, .z, .c]) s (decByte sub v cin s) := by
  unfold decByte
  split
  · next h => exact .afterFlags (decArith_kept h) (by simp) (setDreg8_effect _ .d0 _)
  · exact .afterFlags (anySZC_kept _ _) (by simp) ((setDreg8_effect _ .d0 _).draws _)

theorem decWord_effect (sub : Bool) (v : Word) (cin : Bool) (s : State) :
    Effect [] (parts [.r0l, .r0h] [.s, .z, .c]) s (decWord sub v cin s) := by
  unfold decWord
  split
  · next h => exact .afterFlags (decArith_kept h) (by simp) (setDreg16_effect _ .d0 _)
  · exact .afterFlags (anySZC_kept _ _) (by simp) ((setDreg16_effect _ .d0 _).draws _)

theorem divBy_effect (k : DivKind) (z : Size) (v : BitVec (Size.bits z)) (s : State) :
    Effect [] (parts (dividendRegs z) [.o]) s (divBy k z v s) := by
  cases z <;> simp only [divBy] <;> split
  · exact .afterFlags (flagO_kept ..) (by simp) (setDreg16_effect _ .d0 _)
  · exact .afterFlags (flagO_kept ..) (by simp) ((setDreg16_effect _ .d0 _).draws _)
  · exact .afterFlags (flagO_kept ..) (by simp) (setPair_effect _ .r2r0 _)
  · exact .afterFlags (flagO_kept ..) (by simp) ((setPair_effect _ .r2r0 _).draws _)

theorem divByLoc_effect (k : DivKind) (z : Size) (l : Loc) (s : State) :
    Effect [] (parts (dividendRegs z) [.o]) s (divByLoc k z l s) :=
  (readLoc_effect z l s).after (divBy_effect k z _ _)

theorem mulTo_leaves (signed : Bool) (z : Size) (v : BitVec (Size.bits z)) (dst : Operand) (s t : State) :
    Leaves (productBytes z (s.loc dst)) (parts (productRegs z dst) []) t (mulTo signed z v (s.loc dst) t) := by
  cases z <;> cases dst
  case b.data r =>
    have h (d : DReg) (p : Word) := (readLoc_effect .b (.data r) t).after (setDreg16_effect _ d p)
    cases r with
    | d2 => exact (h .d1 _).leaves
    | _ => exact (h .d0 _).leaves
  case w.data r =>
    have h (d : Pair) (p : BitVec 32) := (readLoc_effect .w (.data r) t).after (setPair_effect _ d p)
    cases r with
    | d1 => exact (h .r3r1 _).leaves
    | _ => exact (h .r2r0 _).leaves
  case b.addr a => exact Effect.leaves (.after (readLoc_effect .b (.addr a) t) (setAreg_effect _ .a0 _))
  case w.addr a => exact Effect.leaves (.after (readLoc_effect .w (.addr a) t) (setPair_effect _ .a1a0 _))
  case b.mem e => exact .after (readLoc_effect .b (.mem _) t) (writeWord_leaves .other _ _ _)
  case w.mem e => exact .after (readLoc_effect .w (.mem _) t) (write32_leaves .other _ _ _)

theorem extsTo_leaves (dst : Operand) (s : State) :
    Leaves (locBytes .w (s.loc dst)) (parts (operandRegs .w (extsDest dst)) [.s, .z]) s (extsTo (s.loc dst) s) := by
  cases dst with
  | data r =>
    cases r <;> exact Effect.leaves (.after (readLoc_effect .b _ s) (.afterFlags (setSZ_kept ..) (by simp)
      (setDreg16_effect ..)))
  | addr a =>
    exact Effect.leaves (.after (readLoc_effect .b _ s) (.afterFlags (setSZ_kept ..) (by simp) (setAreg_effect ..)))
  | mem e =>
    exact .after (readLoc_effect .b _ s) (.afterFlags (r := []) (setSZ_kept ..) (by simp)
      (writeWord_leaves .other _ _ _))

/-! The stack and register lists. -/

theorem pushSized_leaves (z : Size) (v : BitVec (Size.bits z)) (s : State) :
    Leaves (sizeAt z (pushAt z s.sp)) (parts [s.spName] []) s (pushSized z v s) := by
  cases z
  · exact push8_leaves v s
  · exact push16_leaves v s

theorem popSized_effect (z : Size) (s : State) : Effect [] (parts [s.spName] []) s (popSized z s).2 := by
  cases z
  · exact pop8_effect s
  · exact pop16_effect s

theorem pushRet_leaves (ret : Addr) (s : State) : Leaves (callBytes s.sp) (parts [s.spName] []) s (pushRet ret s) := by
  refine ((push8_leaves _ s).thenParts (m := sizeAt .w (pushAt .w (s.sp - 1))) (r' := [s.spName]) (f' := [])
    (fun t ht he => ?_) (by simp)).widen (by simp) (by simp)
  have hsp : t.sp = s.sp - 1 := by rw [(push8_eq_next.mp ht).2]; simp
  rw [← hsp, ← he.spName (by simp)]
  exact push16_leaves _ t

theorem callTo_leaves (a : Addr) (n : Nat) (s : State) :
    Leaves (callBytes s.sp) ([.pc] ++ parts [s.spName] []) s (callTo a n s) := by
  intro u hu
  obtain ⟨t, ht, ⟨⟩⟩ := andThen_eq_next.mp hu
  exact (pushRet_leaves _ s t ht).jump a

theorem pushRegs_leaves (l : List CtxReg) (s : State) :
    Leaves (pushedBytes l.length s.sp) (parts [s.spName] []) s (pushRegs l s) := by
  induction l generalizing s with
  | nil => exact ((Effect.refl s).mono (by simp)).leaves
  | cons r l ih =>
    refine ((push16_leaves _ s).thenParts (r' := [s.spName]) (f' := []) (fun t ht he => ?_) (by simp)).widen
      (by simp) (by simp)
    rw [← push16_sp ht, ← he.spName (by simp)]
    exact ih t

theorem storeRegs_leaves (l : List CtxReg) (p : Word) (s : State) :
    Leaves (pushedBytes l.length p) [] s (storeRegs l p s) := by
  induction l generalizing p s with
  | nil => exact (Effect.refl s).leaves
  | cons r l ih =>
    exact (writeWord_leaves .other (near (p - 2)) _ s).then (d := []) (fun t _ _ => ih (p - 2) t) (by simp)

theorem setCtx_effect (s : State) (r : CtxReg) (v : Word) : Effect [] (parts (ctxNames r) []) s (s.setCtx r v) := by
  cases r with
  | reg r => exact setReg16_effect s r v
  | sb => exact setSb_effect s v
  | fb => exact setFb_effect s v

theorem popRegs_effect (l : List CtxReg) (s : State) :
    Effect [] (parts (s.spName :: l.flatMap ctxNames) []) s (popRegs l s) := by
  induction l generalizing s with
  | nil => exact (Effect.refl s).mono (by simp)
  | cons r l ih =>
    have hr := (pop16_effect s).thenParts (setCtx_effect (pop16 s).2 r (pop16 s).1) (by simp)
    have hl := hr.thenParts (ih _) (by simp)
    rw [hr.spName (by simp)] at hl
    refine hl.widen (fun n hn => ?_) (by simp)
    simp only [List.mem_append, List.mem_cons, List.flatMap_cons, List.not_mem_nil, or_false] at hn ⊢
    tauto

theorem loadRegs_effect (l : List CtxReg) (p : Word) (s : State) :
    Effect [] (parts (l.flatMap ctxNames) []) s (loadRegs l p s) := by
  induction l generalizing p s with
  | nil => exact Effect.refl s
  | cons r l ih =>
    exact (((readWord_effect (near p) s).after (setCtx_effect _ r _)).thenParts (ih _ _) (by simp)).widen
      (by simp [List.flatMap_cons]) (by simp)

theorem taskInfo_effect (num : BitVec 16) (table : BitVec 20) (s : State) :
    Effect [] [] s (taskInfo num table s).2.2 :=
  (readByte_effect _ s).after ((readByte_effect _ _).after (readByte_effect _ _))

/-! Jumps and iterations. -/

theorem jmpWTarget_effect (src : JmpW) (s : State) : Effect [] [] s (jmpWTarget src s).2 := by
  cases src with
  | reg r => exact Effect.refl s
  | mem e => exact readWord_effect _ s

theorem jmpATarget_effect (src : JmpA) (s : State) : Effect [] [] s (jmpATarget src s).2 := by
  cases src with
  | pair p => exact Effect.refl s
  | mem e => exact read24_effect _ s

theorem specialTarget_effect (n : BitVec 8) (s : State) : Effect [] [] s (specialTarget n s).2 :=
  readWord_effect (specialEntry n) s

theorem addJump_leaves (z : Size) (v : BitVec (Size.bits z)) (l : Loc) (d : BitVec 8) (n : Nat) (s : State) :
    Leaves (locBytes z l) ([.pc] ++ parts (locRegs z l) []) s (addJump z v l d n s) := by
  intro u hu
  simp only [addJump] at hu
  obtain ⟨t, ht, hu⟩ := andThen_eq_next.mp hu
  have h := (readLoc_effect z l s).after (writeLoc_leaves .other z l _ _ t ht)
  cases hu
  split
  · exact h.advance n
  · exact h.jump _

/-- The end of an iteration writes at most `pc`. -/
theorem Effect.endIteration {l : List Addr} {c : List Part} {s t : State} (h : Effect l c s t) (last : Bool)
    (n : Nat) : Effect l ([.pc] ++ c) s (endIteration last n t) := by
  unfold Machine.endIteration
  split
  · exact h.advance n
  · exact (h.mark (stay_effect t n) (fun _ _ => rfl) fun _ => rfl).mono fun p hp => List.mem_append_right _ hp

/-- The registers an iteration of `SMOVB` or `SMOVF` moves on. -/
theorem stringRegs_effect (s : State) (h : Byte) (a0 a1 r3 : Word) :
    Effect [] (parts [.r1h, .a0, .a1, .r3] []) s
      (s.setBank { s.bank with r1 := h ++ loByte s.bank.r1, a0 := a0, a1 := a1, r3 := r3 }) :=
  setBank_effect fun n hn => by cases n <;> simp_all [State.regIn]

theorem smovbStep_leaves (z : Size) (len : Nat) (s : State) :
    Leaves (if s.bank.r3 = 0#16 then [] else sizeAt z (near s.bank.a1))
      ([.pc] ++ parts [.r1h, .a0, .a1, .r3] []) s (smovbStep z len s) := by
  unfold smovbStep
  split
  · exact (((Effect.refl s).mono (by simp)).advance len).leaves
  · intro u hu
    obtain ⟨t, ht, ⟨⟩⟩ := andThen_eq_next.mp hu
    have h := (readMem_effect z s.stringSrc s).after (writeMem_leaves .other z _ _ _ t ht)
    exact Effect.endIteration (h.then (stringRegs_effect t _ _ _ _) (by simp)) _ len

theorem smovfStep_leaves (z : Size) (len : Nat) (s : State) :
    Leaves (if s.bank.r3 = 0#16 then [] else sizeAt z (near s.bank.a1))
      ([.pc] ++ parts [.r1h, .a0, .a1, .r3] []) s (smovfStep z len s) := by
  unfold smovfStep
  split
  · exact (((Effect.refl s).mono (by simp)).advance len).leaves
  · intro u hu
    obtain ⟨t, ht, ⟨⟩⟩ := andThen_eq_next.mp hu
    have h := (readMem_effect z s.stringSrc s).after (writeMem_leaves .other z _ _ _ t ht)
    exact Effect.endIteration (h.then (stringRegs_effect t _ _ _ _) (by simp)) _ len

theorem sstrStep_leaves (z : Size) (len : Nat) (s : State) :
    Leaves (if s.bank.r3 = 0#16 then [] else sizeAt z (near s.bank.a1))
      ([.pc] ++ parts [.a1, .r3] []) s (sstrStep z len s) := by
  unfold sstrStep
  split
  · exact (((Effect.refl s).mono (by simp)).advance len).leaves
  · intro u hu
    obtain ⟨t, ht, ⟨⟩⟩ := andThen_eq_next.mp hu
    have h := writeMem_leaves .other z _ _ _ t ht
    have hregs (a1 r3 : Word) : Effect [] (parts [.a1, .r3] []) t
        (t.setBank { t.bank with a1 := a1, r3 := r3 }) :=
      setBank_effect fun n hn => by cases n <;> simp_all [State.regIn]
    exact Effect.endIteration (h.then (hregs _ _) (by simp)) _ len

theorem setRmpaAcc_effect (z : Size) (v : Int) (s : State) :
    Effect [] (parts (dividendRegs z) []) s (setRmpaAcc z v s) := by
  cases z
  · exact setDreg16_effect s .d0 _
  · exact setPair_effect s .r2r0 _

/-- The pointers and the count of `RMPA`, and O. -/
theorem rmpaRegs_effect (s : State) (a0 a1 r3 : Word) :
    Effect [] (parts [.a0, .a1, .r3] []) s (s.setBank { s.bank with a0 := a0, a1 := a1, r3 := r3 }) :=
  setBank_effect fun n hn => by cases n <;> simp_all [State.regIn]

theorem rmpaStep_effect (z : Size) (len : Nat) (s : State) :
    Effect [] ([.pc] ++ parts (dividendRegs z ++ [.a0, .a1, .r3]) [.o]) s (rmpaStep z len s) := by
  have hread := (readMem_effect z (near s.bank.a0) s).after (readMem_effect z (near s.bank.a1) _)
  have hregs (v : Int) (a0 a1 r3 : Word) := (hread.after (setRmpaAcc_effect z v _)).thenParts
    (rmpaRegs_effect _ a0 a1 r3) (by simp)
  have hflag (v : Int) (a0 a1 r3 : Word) (o : Bool) := ((hregs v a0 a1 r3).thenParts
    (setFlg_effect (flagO_kept _ o)) (by simp)).widen (r' := dividendRegs z ++ [.a0, .a1, .r3]) (f' := [.o])
      (by simp) (by simp)
  unfold rmpaStep
  split
  · exact ((Effect.refl s).mono (by simp)).advance len
  · dsimp only
    split
    · exact ((hflag _ _ _ _ true).draws _).advance len
    · split
      · exact (hflag _ _ _ _ false).advance len
      · exact (((hregs _ _ _ _).widen (by simp) (by simp)).mark (stay_effect _ len) (fun _ _ => rfl)
          fun _ => rfl).mono fun p hp => List.mem_append_right _ hp

/-! Interrupt sequences, returns and control registers. -/

theorem setFlg_spName_seqFlags (clearU : Bool) (s : State) :
    (s.setFlg (seqFlags clearU s.flg)).spName = if clearU then .isp else s.spName := by
  cases clearU <;> rfl

theorem setFlg_sp_seqFlags (clearU : Bool) (s : State) :
    (s.setFlg (seqFlags clearU s.flg)).sp = if clearU then s.isp else s.sp := by
  cases clearU <;> rfl

/-- A sequence that sets no level: the frame on the stack pointer the new U selects, and the flags it clears. -/
theorem intSeq_leaves (vec ret : Addr) (clearU : Bool) (s : State) :
    Leaves (pushedBytes 2 (if clearU then s.isp else s.sp))
      ([.pc] ++ parts [if clearU then .isp else s.spName] (if clearU then [.u, .i, .d] else [.i, .d])) s
      (intSeq vec ret clearU none s) := by
  rw [← setFlg_sp_seqFlags, ← setFlg_spName_seqFlags]
  intro u hu
  obtain ⟨t1, h1, hu⟩ := andThen_eq_next.mp hu
  obtain ⟨t2, h2, ⟨⟩⟩ := andThen_eq_next.mp hu
  have e1 := push16_leaves _ _ t1 h1
  have e2 := push16_leaves _ _ t2 h2
  rw [push16_sp h1, e1.spName (by simp)] at e2
  have e3 := (waiting_effect (t2.setFlg t2.flg) false).after (read32_effect vec _)
  have e := ((e1.transParts e2 (by simp)).thenNone e3 (by simp)).widen
    (r' := [(s.setFlg (seqFlags clearU s.flg)).spName]) (f' := []) (by simp) (by simp)
  exact Effect.jump (.afterFlags (seqFlags_kept clearU s.flg) (by cases clearU <;> simp) e) _

end Sys2Proof.Machine
end

section
/-! PROOFS. Every instruction is its effect, on the registers and flags listed for it, and then its end (`exec_ran`). -/

namespace Sys2Proof.Machine

/-- All of FLG may change, with IPL. -/
theorem setFlg_effect_all (s : State) (f : Flg) : Effect [] ([.ipl] ++ parts [] allFlags) s (s.setFlg f) :=
  .ofRegs (setFlg_keeps s f) rfl rfl fun p hp => by
    cases p with
    | flag n => cases n <;> simp [allFlags] at hp
    | ipl => simp at hp
    | _ => rfl

theorem returnFromInterrupt_leaves (s : State) :
    Leaves [] ([.pc, .ipl, .iplOld] ++ parts [s.spName] allFlags) s (returnFromInterrupt s) := by
  have h0 := openIpl_effect s Config.iplWindowReit
  have h1 := h0.then (pop16_effect _) (by simp)
  have h2 := h1.then (pop16_effect _) (by simp)
  rw [h1.spName (by simp), h0.spName (by simp)] at h2
  have h3 := h2.jump ((pop16 (pop16 (s.openIpl Config.iplWindowReit)).2).1.extractLsb' 8 4 ++
    (pop16 (s.openIpl Config.iplWindowReit)).1)
  exact ((h3.then (setFlg_effect_all _ _) (by simp)).mono (by simp [allFlags])).leaves

/-- What an instruction that loads a control register marks for the next boundary (R558, R559, R613). -/
def cregMarks (c : CReg) : List Part :=
  (if c = .flg then [Part.ipl] else []) ++ [Part.shadow] ++ [Part.prevI] ++ if c = .flg then [Part.iplOld] else []

theorem setCreg_effect (s : State) (c : CReg) (v : Word) :
    Effect [] ((if c = .flg then [.ipl] else []) ++ parts (cregNames s c) (if c = .flg then allFlags else [])) s
      (s.setCreg c v) := by
  cases c
  case intbl => exact setIntb_effect s _
  case intbh => exact setIntb_effect s _
  case flg => exact setFlg_effect_all s _
  case isp => exact setIsp_effect s v
  case sp => exact setSp_effect s v
  case sb => exact setSb_effect s v
  case fb => exact setFb_effect s v

theorem afterCreg_effect (before : State) (c : CReg) (s : State) :
    Effect [] ([.shadow, .prevI] ++ if c = .flg then [.iplOld] else []) s (afterCreg before c s) :=
  .ofUnbanked ⟨fun _ _ => rfl, id, rfl, rfl, rfl, rfl, rfl, [], rfl⟩ rfl rfl rfl fun p hp => by
    cases p with
    | shadow => simp at hp
    | prevI => simp at hp
    | iplOld => exact if_neg (by rintro rfl; simp at hp)
    | _ => rfl

/-- `LDC` and `POPC`: the control register, its flags when it is FLG, and the marks. -/
theorem loadCreg_effect (c : CReg) (v : Word) (before s : State) :
    Effect [] (cregMarks c ++ parts (cregNames s c) (if c = .flg then allFlags else [])) s
      (loadCreg c v before s) :=
  ((setCreg_effect s c v).mark (afterCreg_effect before c _) (fun _ _ => rfl) fun _ => rfl).mono (by
    by_cases h : c = .flg <;> simp [cregMarks, h]; tauto)

theorem putFlag_effect (n : FlagName) (v : Bool) (s : State) :
    Effect [] ([.prevI] ++ parts [] [n]) s (putFlag n v s) :=
  (setFlg_effect (put_kept s.flg n v)).mark
    (.ofUnbanked ⟨fun _ _ => rfl, id, rfl, rfl, rfl, rfl, rfl, [], rfl⟩ rfl rfl rfl fun p hp => by
      cases p with
      | prevI => simp at hp
      | _ => rfl) (fun _ _ => rfl) fun _ => rfl

theorem addToSp_effect (v : Word) (s : State) : Effect [] (parts [s.spName] [.o, .s, .z, .c]) s (addToSp v s) := by
  have hflg := addFlags_kept s.sp v false s.flg
  have hsp : (s.setFlg (addFlags s.sp v false s.flg).2).spName = s.spName :=
    (setFlg_effect hflg).spName (by simp)
  exact .afterFlags hflg (by simp) (hsp ▸ setSp_effect _ _)

/-! Every instruction. -/

/-- The parts of the state besides registers and flags that an instruction may change: `pc`, if it writes it itself,
and what the next boundary sees. -/
def marks (i : Instr) : List Part :=
  (if writesPc i then [Part.pc] else []) ++ (if changesIpl i then [Part.ipl] else []) ++
    (if setsShadow i then [Part.shadow] else []) ++ (if delaysI i then [Part.prevI] else []) ++
    if opensIpl i = 0 then [] else [Part.iplOld]

/-- All parts an instruction may change before `pc` moves to the next one. -/
def changedParts (i : Instr) (s : State) : List Part := marks i ++ parts (changedRegs i s) (changedFlags i s)

/-- Windows on sources that the instruction ends: those of a `POPC` that turned I on (log 20). -/
def windowsEnded (i : Instr) (s u : State) : State :=
  match i with
  | .popc _ => afterPopc s u
  | _ => u

/-- What is left to do after an instruction's effect: windows may end, and `pc` moves on where the instruction has not
written it (R32). -/
def ended (i : Instr) (s u : State) : State :=
  if writesPc i then u else (windowsEnded i s u).advance i.length

/-- The instruction took `s` to `t`: its effect, and then its end. -/
def Ran (i : Instr) (s t : State) : Prop := ∃ u, Effect (storedTo i s) (changedParts i s) s u ∧ t = ended i s u

section
variable {i : Instr} {body : State → Result} {s t : State}

/-- An instruction that goes on to the next one. -/
theorem ran_marked (ht : sequential i body s = .next t) (hend : ∀ u, ended i s u = u.advance i.length)
    (h : Leaves (storedTo i s) (changedParts i s) s (body s)) : Ran i s t := by
  obtain ⟨-, u, hu, rfl⟩ := sequential_eq_next.mp ht
  exact ⟨u, h u hu, (hend u).symm⟩

/-- An instruction that goes on to the next one and marks nothing. -/
theorem ran_sequential (ht : sequential i body s = .next t) (hend : ∀ u, ended i s u = u.advance i.length)
    (hmarks : marks i = []) (h : Leaves (storedTo i s) (parts (changedRegs i s) (changedFlags i s)) s (body s)) :
    Ran i s t := ran_marked ht hend (by rw [changedParts, hmarks]; exact h)

/-- An instruction that writes `pc` itself. -/
theorem ran_guarded (ht : guarded i body s = .next t) (hpc : writesPc i = true)
    (h : Leaves (storedTo i s) (changedParts i s) s (body s)) : Ran i s t := by
  obtain ⟨-, hu⟩ := guarded_eq_next.mp ht
  exact ⟨t, h t hu, by simp [ended, hpc]⟩

/-- An instruction that writes `pc` and marks nothing else. -/
theorem ran_jump (ht : guarded i body s = .next t) (hpc : writesPc i = true) (hmarks : marks i = [.pc])
    (h : Leaves (storedTo i s) ([.pc] ++ parts (changedRegs i s) (changedFlags i s)) s (body s)) : Ran i s t :=
  ran_guarded ht hpc (by rw [changedParts, hmarks]; exact h)

end

section
variable {l : List Addr} {f : List FlagName} {m : List Part} {s s0 : State} {r : Result}

/-- Registers named by the operand instead of its location. -/
theorem Leaves.atLoc {z : Size} {dst : Operand} (h : Leaves l (parts (locRegs z (s0.loc dst)) f) s r) :
    Leaves l (parts (operandRegs z dst) f) s r := by rwa [locRegs_loc] at h

theorem Leaves.atShort {dst : ShortDest} (h : Leaves l (parts (locRegs .b (s0.shortLoc dst)) f) s r) :
    Leaves l (parts (shortRegs dst) f) s r := by rwa [locRegs_shortLoc] at h

theorem Leaves.atBit {dst : BitOp} (h : Leaves l (parts (bitLocRegs (s0.bitLoc dst)) f) s r) :
    Leaves l (parts (bitRegs dst) f) s r := by rwa [bitLocRegs_bitLoc] at h

end

section
variable {l : List Addr} {f : List FlagName} {s : State} {r : Result}

theorem Leaves.atHalf {h : Half} (hl : Leaves l (parts (locRegs .b (.data (halfDreg h))) f) s r) :
    Leaves l (parts [halfReg h] f) s r := by cases h <;> exact hl

end

/-- A push of an operand that is read first. -/
theorem pushLoc_leaves (z : Size) (l : Loc) (s : State) :
    Leaves (sizeAt z (pushAt z s.sp)) (parts [s.spName] []) s
      (pushSized z (readLoc z l s).1 (readLoc z l s).2) := by
  have h := pushSized_leaves z (readLoc z l s).1 (readLoc z l s).2
  rw [(readLoc_touches z l s).sp, (readLoc_effect z l s).spName (by simp)] at h
  exact .after (readLoc_effect z l s) h

/-- A pop into a location. -/
theorem popLoc_leaves (z : Size) (l : Loc) (s : State) :
    Leaves (locBytes z l) (parts (s.spName :: locRegs z l) []) s
      (writeLoc .other z l (popSized z s).1 (popSized z s).2) := fun t ht =>
  (popSized_effect z s).transParts (writeLoc_leaves .other z l _ _ t ht) (by simp)

theorem pop8Half_effect (h : Half) (s : State) :
    Effect [] (parts [s.spName, halfReg h] []) s ((pop8 s).2.setDreg8 (halfDreg h) (pop8 s).1) := by
  have hp := (pop8_effect s).thenParts (setDreg8_effect (pop8 s).2 (halfDreg h) (pop8 s).1) (by simp)
  cases h <;> exact hp

/-- A store that happens under a condition. -/
theorem storeIf_leaves (c : Bool) (l : Loc) (v : Byte) (s : State) :
    Leaves (if c then locBytes .b l else []) (parts (if c then locRegs .b l else []) []) s
      (if c then writeLoc .other .b l v s else .next s) := by
  cases c
  · exact (Effect.refl s).leaves
  · exact writeLoc_leaves .other .b l v s

theorem stz_leaves (v : Byte) (dst : ShortDest) (s : State) :
    Leaves (if s.flg.z then locBytes .b (s.shortLoc dst) else []) (parts (if s.flg.z then shortRegs dst else []) []) s
      (if s.flg.z then writeLoc .other .b (s.shortLoc dst) v s else .next s) := by
  rw [← locRegs_shortLoc dst s]
  exact storeIf_leaves s.flg.z (s.shortLoc dst) v s

theorem stnz_leaves (v : Byte) (dst : ShortDest) (s : State) :
    Leaves (if s.flg.z then [] else locBytes .b (s.shortLoc dst)) (parts (if s.flg.z then [] else shortRegs dst) []) s
      (if s.flg.z then .next s else writeLoc .other .b (s.shortLoc dst) v s) := by
  have h := storeIf_leaves (!s.flg.z) (s.shortLoc dst) v s
  cases hz : s.flg.z <;> simpa [hz] using h

theorem stcPc_leaves (dst : PcDest) (n : Nat) (s : State) :
    Leaves (storedTo (.stcPc dst) s) (parts (changedRegs (.stcPc dst) s) []) s
      (match dst with
        | .pair p => .next (s.setPair p ((s.next n).setWidth 32))
        | .mem e => write24 .other (near (s.ea e)) ((s.next n).setWidth 24) s) := by
  cases dst with
  | pair p => exact (setPair_effect s p _).leaves
  | mem e => exact write24_leaves .other _ _ s

theorem enter_leaves (v : BitVec 8) (s : State) :
    Leaves (sizeAt .w (pushAt .w s.sp)) (parts [s.spName, .fb] []) s
      (andThen (push16 s.bank.fb s) fun t => .next ((t.setFb t.sp).setSp (t.sp - v.setWidth 16))) := by
  refine ((push16_leaves _ s).nextParts (r' := [.fb, s.spName]) (f' := []) (fun t he => ?_) (by simp)).widen
    (by simp) (by simp)
  have h := (setFb_effect t t.sp).thenParts (setSp_effect (t.setFb t.sp) (t.sp - v.setWidth 16)) (by simp)
  rw [(setFb_effect t t.sp).spName (by simp), he.spName (by simp)] at h
  exact h

/-- A return address popped: a word, then a byte. -/
theorem popReturn_effect (s : State) : Effect [] (parts [s.spName] []) s (pop8 (pop16 s).2).2 := by
  have h := (pop16_effect s).thenParts (pop8_effect _) (by simp)
  rw [(pop16_effect s).spName (by simp)] at h
  exact h.widen (by simp) (by simp)

theorem exitd_effect (s : State) :
    Effect [] (parts [s.spName, .fb] []) s
      (pop8 (pop16 ((pop16 (s.setSp s.bank.fb)).2.setFb (pop16 (s.setSp s.bank.fb)).1)).2).2 := by
  have h0 := setSp_effect s s.bank.fb
  have h1 := h0.thenParts (pop16_effect _) (by simp)
  have h2 := h1.thenParts (setFb_effect _ (pop16 (s.setSp s.bank.fb)).1) (by simp)
  have h3 := h2.thenParts (popReturn_effect _) (by simp)
  rw [h2.spName (by simp), h0.spName (by simp)] at h3
  exact h3.widen (by simp) (by simp)

theorem ldctx_effect (num : BitVec 16) (table : BitVec 20) (s : State) :
    Effect [] (parts (s.spName :: (selected ctxRegs 0 (taskInfo num table s).1).flatMap ctxNames) []) s
      ((loadRegs (selected ctxRegs 0 (taskInfo num table s).1) s.sp (taskInfo num table s).2.2).setSp
        (s.sp + (taskInfo num table s).2.1.setWidth 16)) := by
  have h := (taskInfo_effect num table s).after
    (loadRegs_effect (selected ctxRegs 0 (taskInfo num table s).1) s.sp (taskInfo num table s).2.2)
  have hsp := h.thenParts (setSp_effect _ (s.sp + (taskInfo num table s).2.1.setWidth 16)) (by simp)
  rw [h.spName (by simp)] at hsp
  exact hsp.widen (fun n hn => by simpa [or_comm] using hn) (by simp)

theorem stctx_leaves (num : BitVec 16) (table : BitVec 20) (s : State) :
    Leaves (pushedBytes (selected ctxRegs 0 (taskInfo num table s).1).length s.sp) (parts [s.spName] []) s
      (andThen (storeRegs (selected ctxRegs 0 (taskInfo num table s).1).reverse s.sp (taskInfo num table s).2.2)
        fun u => .next (u.setSp (s.sp - (taskInfo num table s).2.1.setWidth 16))) := by
  intro u hu
  obtain ⟨t, ht, ⟨⟩⟩ := andThen_eq_next.mp hu
  have h := (taskInfo_effect num table s).after (storeRegs_leaves _ s.sp _ t ht)
  have hsp := Effect.then h (setSp_effect t (s.sp - (taskInfo num table s).2.1.setWidth 16)) (by simp)
  rw [List.length_reverse, h.spName (by simp)] at hsp
  exact hsp

/-- A jump that may be taken or not. -/
theorem jumpIf_leaves (c : Bool) (a : Addr) (n : Nat) (s : State) :
    Leaves [] ([.pc] ++ parts [] []) s (.next (if c then s.jump a else s.advance n)) := by
  cases c
  · exact ((Effect.refl s).advance n).leaves
  · exact ((Effect.refl s).jump a).leaves

/-- A call to a target that is read first. -/
theorem callAfter_leaves {s t : State} (h : Effect [] [] s t) (hsp : t.sp = s.sp) (a : Addr) (n : Nat) :
    Leaves (callBytes s.sp) ([.pc] ++ parts [s.spName] []) s (callTo a n t) := by
  have hc := callTo_leaves a n t
  rw [hsp, h.spName (by simp)] at hc
  exact .after h hc

theorem jmpWTarget_sp (src : JmpW) (s : State) : (jmpWTarget src s).2.sp = s.sp := by
  cases src with
  | reg r => rfl
  | mem e => exact (readWord_touches _ s).sp

theorem jmpATarget_sp (src : JmpA) (s : State) : (jmpATarget src s).2.sp = s.sp := by
  cases src with
  | pair p => rfl
  | mem e => exact (read24_touches _ s).sp

theorem jsrs_leaves (n : BitVec 8) (s : State) :
    Leaves (callBytes s.sp) ([.pc] ++ parts [s.spName] []) s
      (andThen (pushRet (s.next 2) s) fun t => .next ((specialTarget n t).2.jump (specialTarget n t).1)) := by
  intro u hu
  obtain ⟨t, ht, ⟨⟩⟩ := andThen_eq_next.mp hu
  exact ((pushRet_leaves _ s t ht).thenNone (specialTarget_effect n t) (by simp)).jump _

theorem brk_leaves (s : State) :
    Leaves (pushedBytes 2 s.isp) ([.pc] ++ parts [.isp] [.u, .i, .d]) s
      (intSeq (brkTarget (read32 Config.brkVector s).1 s.intb) (s.next 1) true none (read32 Config.brkVector s).2) := by
  have h := intSeq_leaves (brkTarget (read32 Config.brkVector s).1 s.intb) (s.next 1) true (read32 Config.brkVector s).2
  have hisp : (read32 Config.brkVector s).2.isp = s.isp := by rw [(read32_touches _ s).rest]
  rw [hisp] at h
  exact .after (read32_effect _ s) h

theorem int_leaves (n : BitVec 6) (s : State) :
    Leaves (pushedBytes 2 (if n.toNat ≤ 31 then s.isp else s.sp))
      ([.pc] ++ parts [if n.toNat ≤ 31 then .isp else s.spName]
        (if n.toNat ≤ 31 then [.u, .i, .d] else [.i, .d])) s
      (intSeq (s.variableVector n) (s.next 2) (decide (n.toNat ≤ 31)) none s) := by
  have h := intSeq_leaves (s.variableVector n) (s.next 2) (decide (n.toNat ≤ 31)) s
  simpa only [decide_eq_true_eq] using h

theorem into_leaves (s : State) :
    Leaves (if s.flg.o then pushedBytes 2 s.isp else [])
      ([.pc] ++ parts (if s.flg.o then [.isp] else []) (if s.flg.o then [.u, .i, .d] else [])) s
      (if s.flg.o then intSeq Config.intoVector (s.next 1) true none s else .next (s.advance 1)) := by
  cases s.flg.o
  · exact ((Effect.refl s).advance 1).leaves
  · exact intSeq_leaves _ _ true s

/-! The instructions that mark the next boundary. -/

theorem ldipl_effect (l : BitVec 3) (s : State) :
    Effect [] [.ipl, .iplOld] s ((s.openIpl Config.iplWindow).setFlg (s.flg.setIpl l)) := by
  have h : Effect [] [.ipl] (s.openIpl Config.iplWindow)
      ((s.openIpl Config.iplWindow).setFlg (s.flg.setIpl l)) := .ofRegs (setFlg_keeps _ _) rfl rfl fun p hp => by
    cases p with
    | ipl => simp at hp
    | flag n => cases n <;> rfl
    | _ => rfl
  exact ((openIpl_effect s Config.iplWindow).then h (by simp)).mono (by simp)

/-- A control register's names are the same while U is. -/
theorem cregNames_congr {s t : State} (h : t.spName = s.spName) (c : CReg) : cregNames t c = cregNames s c := by
  cases c <;> simp [cregNames, h]

/-- The parts of a load of a control register are those of the instruction. -/
theorem ldc_leaves {i : Instr} (c : CReg) (hm : marks i = cregMarks c) (v : Word) {s t : State}
    (hr : changedRegs i s = cregNames s c) (hf : changedFlags i s = if c = .flg then allFlags else [])
    (h : Effect [] [] s t) : Leaves [] (changedParts i s) s (.next (loadCreg c v s t)) := by
  have hc := loadCreg_effect c v s t
  rw [cregNames_congr (h.spName (by simp))] at hc
  rw [changedParts, hm, hr, hf]
  exact (h.after hc).leaves

/-! The operations by the flags they change (R51). -/

theorem aluAdd_kept (w : Nat) (d v : BitVec w) (f : Flg) : FlagsKept [.o, .s, .z, .c] f (aluAdd w d v f).2 :=
  addFlags_kept d v false f
theorem aluAdc_kept (w : Nat) (d v : BitVec w) (f : Flg) : FlagsKept [.o, .s, .z, .c] f (aluAdc w d v f).2 :=
  addFlags_kept d v f.c f
theorem aluSub_kept (w : Nat) (d v : BitVec w) (f : Flg) : FlagsKept [.o, .s, .z, .c] f (aluSub w d v f).2 :=
  subFlags_kept d v false f
theorem aluSbb_kept (w : Nat) (d v : BitVec w) (f : Flg) : FlagsKept [.o, .s, .z, .c] f (aluSbb w d v f).2 :=
  subFlags_kept d v (!f.c) f
theorem aluAnd_kept (w : Nat) (d v : BitVec w) (f : Flg) : FlagsKept [.s, .z] f (aluAnd w d v f).2 := setSZ_kept _ f
theorem aluOr_kept (w : Nat) (d v : BitVec w) (f : Flg) : FlagsKept [.s, .z] f (aluOr w d v f).2 := setSZ_kept _ f
theorem aluXor_kept (w : Nat) (d v : BitVec w) (f : Flg) : FlagsKept [.s, .z] f (aluXor w d v f).2 := setSZ_kept _ f

theorem unAdcf_kept (w : Nat) (d : BitVec w) (f : Flg) : FlagsKept [.o, .s, .z, .c] f (unAdcf w d f).2 :=
  addFlags_kept d 0#w f.c f
theorem unNeg_kept (w : Nat) (d : BitVec w) (f : Flg) : FlagsKept [.o, .s, .z, .c] f (unNeg w d f).2 :=
  subFlags_kept 0#w d false f
theorem unNot_kept (w : Nat) (d : BitVec w) (f : Flg) : FlagsKept [.s, .z] f (unNot w d f).2 := setSZ_kept _ f
theorem unInc_kept (w : Nat) (d : BitVec w) (f : Flg) : FlagsKept [.s, .z] f (unInc w d f).2 := setSZ_kept _ f
theorem unDec_kept (w : Nat) (d : BitVec w) (f : Flg) : FlagsKept [.s, .z] f (unDec w d f).2 := setSZ_kept _ f

theorem marks_popc (c : CReg) : marks (.popc c) = cregMarks c := by cases c <;> rfl

theorem popc_effect (c : CReg) (s : State) :
    Effect [] (changedParts (.popc c) s) s (loadCreg c (readWord (near s.sp) s).1 s
      (if c = .sp ∨ (c = .isp ∧ s.flg.u = false) then (readWord (near s.sp) s).2
        else (readWord (near s.sp) s).2.setSp (s.sp + 2))) := by
  have hread := readWord_effect (near s.sp) s
  have hpop : Effect [] (parts [s.spName] []) s
      (if c = .sp ∨ (c = .isp ∧ s.flg.u = false) then (readWord (near s.sp) s).2
        else (readWord (near s.sp) s).2.setSp (s.sp + 2)) := by
    split
    · exact hread.mono (by simp)
    · exact hread.after (setSp_effect (readWord (near s.sp) s).2 (s.sp + 2))
  refine (hpop.trans (loadCreg_effect c (readWord (near s.sp) s).1 s _) (by simp)).mono fun p hp => ?_
  rw [cregNames_congr (hpop.spName (by simp)), ← marks_popc] at hp
  change p ∈ marks (.popc c) ++ parts (s.spName :: cregNames s c) (if c = .flg then allFlags else [])
  cases p with
  | reg n => simp_all; tauto
  | _ => simp_all

/-! The instructions. -/

section
variable {i : Instr} {s t : State}

/-- The instructions that write `pc` themselves: jumps, calls, returns, software interrupts and the iterations. -/
theorem ran_of_writesPc (hpc : writesPc i = true) (ht : exec i s = .next t) : Ran i s t := by
  cases i
  case jmpS | jmpB | jmpW | jmpA =>
    exact ran_jump ht rfl rfl <| ((Effect.refl s).jump _).leaves
  case jcnd8 c d =>
    exact ran_jump (show execJcnd8 c d s = _ from ht) rfl rfl <| jumpIf_leaves _ _ _ s
  case jcnd16 c d =>
    exact ran_jump (show execJcnd16 c d s = _ from ht) rfl rfl <| jumpIf_leaves _ _ _ s
  case jmpiA src =>
    exact ran_jump ht rfl rfl <| ((jmpATarget_effect src s).jump _).leaves
  case jmpiW src =>
    exact ran_jump ht rfl rfl <| ((jmpWTarget_effect src s).jump _).leaves
  case jmps n =>
    exact ran_jump (show execJmps n s = _ from ht) rfl rfl <| ((specialTarget_effect n s).jump _).leaves
  case jsrW | jsrA =>
    exact ran_jump ht rfl rfl <| callTo_leaves _ _ s
  case jsriA src =>
    exact ran_jump ht rfl rfl <| callAfter_leaves (jmpATarget_effect src s) (jmpATarget_sp src s) _ _
  case jsriW src =>
    exact ran_jump ht rfl rfl <| callAfter_leaves (jmpWTarget_effect src s) (jmpWTarget_sp src s) _ _
  case jsrs n =>
    exact ran_jump (show execJsrs n s = _ from ht) rfl rfl <| jsrs_leaves n s
  case rts =>
    exact ran_jump ht rfl rfl <| ((popReturn_effect s).jump _).leaves
  case exitd =>
    exact ran_jump ht rfl rfl <| ((exitd_effect s).jump _).leaves
  case adjnz sz v dst d | sbjnz sz v dst d =>
    have h := addJump_leaves sz (quickVal sz v) (s.loc dst) d
    simp only [locRegs_loc] at h
    exact ran_jump ht rfl rfl <| h _ s
  case brk =>
    exact ran_jump ht rfl rfl <| brk_leaves s
  case int n =>
    exact ran_jump ht rfl rfl <| int_leaves n s
  case into =>
    exact ran_jump ht rfl rfl <| into_leaves s
  case und =>
    exact ran_jump ht rfl rfl <| intSeq_leaves _ _ true s
  case reit =>
    exact ran_guarded ht rfl <| returnFromInterrupt_leaves s
  case smovf sz =>
    exact ran_jump ht rfl rfl <| smovfStep_leaves sz 2 s
  case smovb sz =>
    exact ran_jump ht rfl rfl <| smovbStep_leaves sz 2 s
  case sstr sz =>
    exact ran_jump ht rfl rfl <| sstrStep_leaves sz 2 s
  case rmpa sz =>
    exact ran_jump ht rfl rfl <| (rmpaStep_effect sz 2 s).leaves
  all_goals cases hpc

/-- The instructions after which the next boundary is special. -/
theorem ran_of_marks (hpc : writesPc i = false) (hm : marks i ≠ []) (ht : exec i s = .next t) : Ran i s t := by
  cases i
  case ldipl l =>
    exact ran_marked (show execLdipl l s = _ from ht) (fun _ => rfl) <| (ldipl_effect l s).leaves
  case fset f =>
    exact ran_marked (show execFset f s = _ from ht) (fun _ => rfl) <| (putFlag_effect f true s).leaves
  case fclr f =>
    exact ran_marked (show execFclr f s = _ from ht) (fun _ => rfl) <| (putFlag_effect f false s).leaves
  case ldcImm v c =>
    exact ran_marked (show execLdcImm v c s = _ from ht) (fun _ => rfl) <|
      ldc_leaves c (by cases c <;> rfl) v rfl rfl (.refl s)
  case ldcSrc src c =>
    exact ran_marked (show execLdcSrc src c s = _ from ht) (fun _ => rfl) <|
      ldc_leaves c (by cases c <;> rfl) _ rfl rfl (readLoc_effect .w (s.loc src) s)
  case ldintb v =>
    exact ran_marked (show execLdintb v s = _ from ht) (fun _ => rfl) <|
      ((setIntb_effect s v).mark (afterCreg_effect s .intbl _) (fun _ _ => rfl) fun _ => rfl).leaves
  case popc c =>
    obtain ⟨-, u, hu, rfl⟩ := sequential_eq_next.mp (show execPopc c s = .next t from ht)
    cases hu
    exact ⟨_, popc_effect c s, rfl⟩
  all_goals first | exact absurd rfl hm | cases hpc

end

/-! The operations with their effects. -/

theorem aluAdd_leaves (s : State) (z : Size) (l : Loc) (v : BitVec (Size.bits z)) :
    Leaves (locBytes z l) (parts (locRegs z l) [.o, .s, .z, .c]) s (aluTo aluAdd z v l s) :=
  aluTo_leaves s z l aluAdd_kept (by simp) v

theorem aluAdc_leaves (s : State) (z : Size) (l : Loc) (v : BitVec (Size.bits z)) :
    Leaves (locBytes z l) (parts (locRegs z l) [.o, .s, .z, .c]) s (aluTo aluAdc z v l s) :=
  aluTo_leaves s z l aluAdc_kept (by simp) v

theorem aluSub_leaves (s : State) (z : Size) (l : Loc) (v : BitVec (Size.bits z)) :
    Leaves (locBytes z l) (parts (locRegs z l) [.o, .s, .z, .c]) s (aluTo aluSub z v l s) :=
  aluTo_leaves s z l aluSub_kept (by simp) v

theorem aluSbb_leaves (s : State) (z : Size) (l : Loc) (v : BitVec (Size.bits z)) :
    Leaves (locBytes z l) (parts (locRegs z l) [.o, .s, .z, .c]) s (aluTo aluSbb z v l s) :=
  aluTo_leaves s z l aluSbb_kept (by simp) v

theorem aluAnd_leaves (s : State) (z : Size) (l : Loc) (v : BitVec (Size.bits z)) :
    Leaves (locBytes z l) (parts (locRegs z l) [.s, .z]) s (aluTo aluAnd z v l s) :=
  aluTo_leaves s z l aluAnd_kept (by simp) v

theorem aluOr_leaves (s : State) (z : Size) (l : Loc) (v : BitVec (Size.bits z)) :
    Leaves (locBytes z l) (parts (locRegs z l) [.s, .z]) s (aluTo aluOr z v l s) :=
  aluTo_leaves s z l aluOr_kept (by simp) v

theorem aluXor_leaves (s : State) (z : Size) (l : Loc) (v : BitVec (Size.bits z)) :
    Leaves (locBytes z l) (parts (locRegs z l) [.s, .z]) s (aluTo aluXor z v l s) :=
  aluTo_leaves s z l aluXor_kept (by simp) v

theorem unNeg_leaves (s : State) (z : Size) (l : Loc) :
    Leaves (locBytes z l) (parts (locRegs z l) [.o, .s, .z, .c]) s (unaryTo unNeg z l s) :=
  unaryTo_leaves s z l unNeg_kept (by simp)

theorem unAdcf_leaves (s : State) (z : Size) (l : Loc) :
    Leaves (locBytes z l) (parts (locRegs z l) [.o, .s, .z, .c]) s (unaryTo unAdcf z l s) :=
  unaryTo_leaves s z l unAdcf_kept (by simp)

theorem unNot_leaves (s : State) (z : Size) (l : Loc) :
    Leaves (locBytes z l) (parts (locRegs z l) [.s, .z]) s (unaryTo unNot z l s) :=
  unaryTo_leaves s z l unNot_kept (by simp)

theorem unInc_leaves (s : State) (z : Size) (l : Loc) :
    Leaves (locBytes z l) (parts (locRegs z l) [.s, .z]) s (unaryTo unInc z l s) :=
  unaryTo_leaves s z l unInc_kept (by simp)

theorem unDec_leaves (s : State) (z : Size) (l : Loc) :
    Leaves (locBytes z l) (parts (locRegs z l) [.s, .z]) s (unaryTo unDec z l s) :=
  unaryTo_leaves s z l unDec_kept (by simp)

theorem unRolc_leaves (s : State) (z : Size) (l : Loc) :
    Leaves (locBytes z l) (parts (locRegs z l) [.s, .z, .c]) s (unaryTo unRolc z l s) :=
  unaryTo_leaves s z l unRolc_kept (by simp)

theorem unRorc_leaves (s : State) (z : Size) (l : Loc) :
    Leaves (locBytes z l) (parts (locRegs z l) [.s, .z, .c]) s (unaryTo unRorc z l s) :=
  unaryTo_leaves s z l unRorc_kept (by simp)

theorem unAbs_leaves (any : Bool) (s : State) (z : Size) (l : Loc) :
    Leaves (locBytes z l) (parts (locRegs z l) [.o, .s, .z, .c]) s (unaryTo (unAbs any) z l s) :=
  unaryTo_leaves s z l (unAbs_kept any) (by simp)

theorem shift_leaves (k : ShiftKind) (left : Bool) (n : Nat) (s : State) (z : Size) (l : Loc) :
    Leaves (locBytes z l) (parts (locRegs z l) (shiftedFlags k)) s (unaryTo (shiftFlags k left n) z l s) :=
  unaryTo_leaves s z l (shiftFlags_kept k left n) (b_notMem_shiftedFlags k)

/-- A pop into an operand. -/
theorem popOperand_leaves (z : Size) (dst : Operand) (s : State) :
    Leaves (locBytes z (s.loc dst)) (parts (s.spName :: operandRegs z dst) []) s
      (writeLoc .other z (s.loc dst) (popSized z s).1 (popSized z s).2) := by
  have h := popLoc_leaves z (s.loc dst) s
  rwa [locRegs_loc] at h

/-- Register names in another order. -/
theorem xchg_leaves (z : Size) (r : DReg) (dst : Operand) (s : State) :
    Leaves (locBytes z (s.loc dst)) (parts (operandRegs z (.data r) ++ operandRegs z dst) []) s
      (xchgWith z r (s.loc dst) s) :=
  (xchgWith_leaves z r (s.loc dst) s).widen (fun n hn => by simpa [or_comm] using hn) (by simp)

section
variable {i : Instr} {s t : State}

/-- The instructions that leave `pc` to the end and mark nothing for the next boundary. -/
theorem ran_of_plain (ht : exec i s = .next t) (hpc : writesPc i = false) (hd : delaysI i = false)
    (ho : opensIpl i = 0) : Ran i s t := by
  cases i
  case addGImm =>
    exact ran_sequential (show execAddGImm _ _ s = _ from ht) (fun _ => rfl) rfl <| .atLoc (aluAdd_leaves _ _ _ _)
  case addQ =>
    exact ran_sequential (show execAddQ _ _ _ s = _ from ht) (fun _ => rfl) rfl <| .atLoc (aluAdd_leaves _ _ _ _)
  case adcImm =>
    exact ran_sequential (show execAdcImm _ _ s = _ from ht) (fun _ => rfl) rfl <| .atLoc (aluAdc_leaves _ _ _ _)
  case subGImm =>
    exact ran_sequential (show execSubGImm _ _ s = _ from ht) (fun _ => rfl) rfl <| .atLoc (aluSub_leaves _ _ _ _)
  case sbbImm =>
    exact ran_sequential (show execSbbImm _ _ s = _ from ht) (fun _ => rfl) rfl <| .atLoc (aluSbb_leaves _ _ _ _)
  case addGSrc =>
    exact ran_sequential (show execAddGSrc _ _ _ s = _ from ht) (fun _ => rfl) rfl <|
      withSrc_leaves s fun _ u => .atLoc (aluAdd_leaves u _ _ _)
  case adcSrc =>
    exact ran_sequential (show execAdcSrc _ _ _ s = _ from ht) (fun _ => rfl) rfl <|
      withSrc_leaves s fun _ u => .atLoc (aluAdc_leaves u _ _ _)
  case subGSrc =>
    exact ran_sequential (show execSubGSrc _ _ _ s = _ from ht) (fun _ => rfl) rfl <|
      withSrc_leaves s fun _ u => .atLoc (aluSub_leaves u _ _ _)
  case sbbSrc =>
    exact ran_sequential (show execSbbSrc _ _ _ s = _ from ht) (fun _ => rfl) rfl <|
      withSrc_leaves s fun _ u => .atLoc (aluSbb_leaves u _ _ _)
  case addBSImm =>
    exact ran_sequential (show execAddBSImm _ _ s = _ from ht) (fun _ => rfl) rfl <| .atShort (aluAdd_leaves _ _ _ _)
  case subBSImm =>
    exact ran_sequential (show execSubBSImm _ _ s = _ from ht) (fun _ => rfl) rfl <| .atShort (aluSub_leaves _ _ _ _)
  case addBSSrc h src =>
    exact ran_sequential (show execAddBSSrc _ _ s = _ from ht) (fun _ => rfl) rfl <|
      withSrc_leaves s fun _ u => .atHalf (aluAdd_leaves u _ _ _)
  case subBSSrc h src =>
    exact ran_sequential (show execSubBSSrc _ _ s = _ from ht) (fun _ => rfl) rfl <|
      withSrc_leaves s fun _ u => .atHalf (aluSub_leaves u _ _ _)
  case cmpGImm =>
    exact ran_sequential (show execCmpGImm _ _ s = _ from ht) (fun _ => rfl) rfl <| aluTest_leaves _ _ _ aluSub_kept _
  case cmpQ =>
    exact ran_sequential (show execCmpQ _ _ _ s = _ from ht) (fun _ => rfl) rfl <| aluTest_leaves _ _ _ aluSub_kept _
  case cmpBSImm =>
    exact ran_sequential (show execCmpBSImm _ _ s = _ from ht) (fun _ => rfl) rfl <| aluTest_leaves _ _ _ aluSub_kept _
  case cmpGSrc =>
    exact ran_sequential (show execCmpGSrc _ _ _ s = _ from ht) (fun _ => rfl) rfl <|
      withSrc_leaves s fun _ u => aluTest_leaves u _ _ aluSub_kept _
  case cmpBSSrc h src =>
    exact ran_sequential (show execCmpBSSrc _ _ s = _ from ht) (fun _ => rfl) rfl <|
      withSrc_leaves s fun _ u => aluTest_leaves u _ _ aluSub_kept _
  case neg =>
    exact ran_sequential (show execNeg _ _ s = _ from ht) (fun _ => rfl) rfl <| .atLoc (unNeg_leaves s _ _)
  case adcf =>
    exact ran_sequential (show execAdcf _ _ s = _ from ht) (fun _ => rfl) rfl <| .atLoc (unAdcf_leaves s _ _)
  case rolc =>
    exact ran_sequential (show execRolc _ _ s = _ from ht) (fun _ => rfl) rfl <| .atLoc (unRolc_leaves s _ _)
  case rorc =>
    exact ran_sequential (show execRorc _ _ s = _ from ht) (fun _ => rfl) rfl <| .atLoc (unRorc_leaves s _ _)
  case abs z dst =>
    exact ran_sequential (show execAbs _ _ s = _ from ht) (fun _ => rfl) rfl <|
      .after (draws_effect s _) (.atLoc (unAbs_leaves _ _ _ _))
  case rotImm =>
    exact ran_sequential (show execRotImm _ _ _ s = _ from ht) (fun _ => rfl) rfl <|
      .atLoc (shift_leaves .rotate _ _ s _ _)
  case shaImm =>
    exact ran_sequential (show execShaImm _ _ _ s = _ from ht) (fun _ => rfl) rfl <|
      .atLoc (shift_leaves .arith _ _ s _ _)
  case shlImm =>
    exact ran_sequential (show execShlImm _ _ _ s = _ from ht) (fun _ => rfl) rfl <|
      .atLoc (shift_leaves .logical _ _ s _ _)
  case rotR1H =>
    exact ran_sequential (show execRotR1H _ _ s = _ from ht) (fun _ => rfl) rfl <|
      .atLoc (shiftByR1H_leaves .rotate _ _ s)
  case shaR1H =>
    exact ran_sequential (show execShaR1H _ _ s = _ from ht) (fun _ => rfl) rfl <|
      .atLoc (shiftByR1H_leaves .arith _ _ s)
  case shlR1H =>
    exact ran_sequential (show execShlR1H _ _ s = _ from ht) (fun _ => rfl) rfl <|
      .atLoc (shiftByR1H_leaves .logical _ _ s)
  case shaLImm n p =>
    exact ran_sequential (show execShaLImm _ _ s = _ from ht) (fun _ => rfl) rfl <| (shiftLong_effect _ _ p s).leaves
  case shlLImm n p =>
    exact ran_sequential (show execShlLImm _ _ s = _ from ht) (fun _ => rfl) rfl <| (shiftLong_effect _ _ p s).leaves
  case shaLR1H p =>
    exact ran_sequential (show execShaLR1H _ s = _ from ht) (fun _ => rfl) rfl <| (shiftLongByR1H_effect _ p s).leaves
  case shlLR1H p =>
    exact ran_sequential (show execShlLR1H _ s = _ from ht) (fun _ => rfl) rfl <| (shiftLongByR1H_effect _ p s).leaves
  case daddBImm v =>
    exact ran_sequential (show execDaddBImm _ s = _ from ht) (fun _ => rfl) rfl <| (decByte_effect false _ _ s).leaves
  case dadcBImm v =>
    exact ran_sequential (show execDadcBImm _ s = _ from ht) (fun _ => rfl) rfl <| (decByte_effect false _ _ s).leaves
  case daddBReg =>
    exact ran_sequential (show execDaddBReg s = _ from ht) (fun _ => rfl) rfl <| (decByte_effect false _ _ s).leaves
  case dadcBReg =>
    exact ran_sequential (show execDadcBReg s = _ from ht) (fun _ => rfl) rfl <| (decByte_effect false _ _ s).leaves
  case dsubBImm v =>
    exact ran_sequential (show execDsubBImm _ s = _ from ht) (fun _ => rfl) rfl <| (decByte_effect true _ _ s).leaves
  case dsbbBImm v =>
    exact ran_sequential (show execDsbbBImm _ s = _ from ht) (fun _ => rfl) rfl <| (decByte_effect true _ _ s).leaves
  case dsubBReg =>
    exact ran_sequential (show execDsubBReg s = _ from ht) (fun _ => rfl) rfl <| (decByte_effect true _ _ s).leaves
  case dsbbBReg =>
    exact ran_sequential (show execDsbbBReg s = _ from ht) (fun _ => rfl) rfl <| (decByte_effect true _ _ s).leaves
  case daddWImm v =>
    exact ran_sequential (show execDaddWImm _ s = _ from ht) (fun _ => rfl) rfl <| (decWord_effect false _ _ s).leaves
  case dadcWImm v =>
    exact ran_sequential (show execDadcWImm _ s = _ from ht) (fun _ => rfl) rfl <| (decWord_effect false _ _ s).leaves
  case daddWReg =>
    exact ran_sequential (show execDaddWReg s = _ from ht) (fun _ => rfl) rfl <| (decWord_effect false _ _ s).leaves
  case dadcWReg =>
    exact ran_sequential (show execDadcWReg s = _ from ht) (fun _ => rfl) rfl <| (decWord_effect false _ _ s).leaves
  case dsubWImm v =>
    exact ran_sequential (show execDsubWImm _ s = _ from ht) (fun _ => rfl) rfl <| (decWord_effect true _ _ s).leaves
  case dsbbWImm v =>
    exact ran_sequential (show execDsbbWImm _ s = _ from ht) (fun _ => rfl) rfl <| (decWord_effect true _ _ s).leaves
  case dsubWReg =>
    exact ran_sequential (show execDsubWReg s = _ from ht) (fun _ => rfl) rfl <| (decWord_effect true _ _ s).leaves
  case dsbbWReg =>
    exact ran_sequential (show execDsbbWReg s = _ from ht) (fun _ => rfl) rfl <| (decWord_effect true _ _ s).leaves
  case band =>
    exact ran_sequential (show execBand _ s = _ from ht) (fun _ => rfl) rfl <| bitTest_leaves (bitToC_kept _) _ s
  case bnand =>
    exact ran_sequential (show execBnand _ s = _ from ht) (fun _ => rfl) rfl <| bitTest_leaves (bitToC_kept _) _ s
  case bor =>
    exact ran_sequential (show execBor _ s = _ from ht) (fun _ => rfl) rfl <| bitTest_leaves (bitToC_kept _) _ s
  case bnor =>
    exact ran_sequential (show execBnor _ s = _ from ht) (fun _ => rfl) rfl <| bitTest_leaves (bitToC_kept _) _ s
  case bxor =>
    exact ran_sequential (show execBxor _ s = _ from ht) (fun _ => rfl) rfl <| bitTest_leaves (bitToC_kept _) _ s
  case bnxor =>
    exact ran_sequential (show execBnxor _ s = _ from ht) (fun _ => rfl) rfl <| bitTest_leaves (bitToC_kept _) _ s
  case btstG =>
    exact ran_sequential (show execBtstG _ s = _ from ht) (fun _ => rfl) rfl <| bitTest_leaves bitToZC_kept _ s
  case btstS n d =>
    exact ran_sequential (show execBtstS _ _ s = _ from ht) (fun _ => rfl) rfl <| bitTest_leaves bitToZC_kept _ s
  case bntst =>
    exact ran_sequential (show execBntst _ s = _ from ht) (fun _ => rfl) rfl <| bitTest_leaves bitToZCInv_kept _ s
  case btstc =>
    exact ran_sequential (show execBtstc _ s = _ from ht) (fun _ => rfl) rfl <|
      .atBit (bitModify_leaves bitToZC_kept (by simp) _ _ s)
  case btsts =>
    exact ran_sequential (show execBtsts _ s = _ from ht) (fun _ => rfl) rfl <|
      .atBit (bitModify_leaves bitToZC_kept (by simp) _ _ s)
  case bmcndC c =>
    exact ran_sequential (show execBmcndC _ s = _ from ht) (fun _ => rfl) rfl <| (setFlg_effect (flagC_kept _ _)).leaves
  case addGSp v =>
    exact ran_sequential (show execAddGSp _ s = _ from ht) (fun _ => rfl) rfl <| (addToSp_effect _ s).leaves
  case addQSp v =>
    exact ran_sequential (show execAddQSp _ s = _ from ht) (fun _ => rfl) rfl <| (addToSp_effect _ s).leaves
  case andGImm =>
    exact ran_sequential (show execAndGImm _ _ s = _ from ht) (fun _ => rfl) rfl <| .atLoc (aluAnd_leaves _ _ _ _)
  case orGImm =>
    exact ran_sequential (show execOrGImm _ _ s = _ from ht) (fun _ => rfl) rfl <| .atLoc (aluOr_leaves _ _ _ _)
  case xorImm =>
    exact ran_sequential (show execXorImm _ _ s = _ from ht) (fun _ => rfl) rfl <| .atLoc (aluXor_leaves _ _ _ _)
  case andGSrc =>
    exact ran_sequential (show execAndGSrc _ _ _ s = _ from ht) (fun _ => rfl) rfl <|
      withSrc_leaves s fun _ u => .atLoc (aluAnd_leaves u _ _ _)
  case orGSrc =>
    exact ran_sequential (show execOrGSrc _ _ _ s = _ from ht) (fun _ => rfl) rfl <|
      withSrc_leaves s fun _ u => .atLoc (aluOr_leaves u _ _ _)
  case xorSrc =>
    exact ran_sequential (show execXorSrc _ _ _ s = _ from ht) (fun _ => rfl) rfl <|
      withSrc_leaves s fun _ u => .atLoc (aluXor_leaves u _ _ _)
  case andBSImm =>
    exact ran_sequential (show execAndBSImm _ _ s = _ from ht) (fun _ => rfl) rfl <| .atShort (aluAnd_leaves _ _ _ _)
  case orBSImm =>
    exact ran_sequential (show execOrBSImm _ _ s = _ from ht) (fun _ => rfl) rfl <| .atShort (aluOr_leaves _ _ _ _)
  case andBSSrc h src =>
    exact ran_sequential (show execAndBSSrc _ _ s = _ from ht) (fun _ => rfl) rfl <|
      withSrc_leaves s fun _ u => .atHalf (aluAnd_leaves u _ _ _)
  case orBSSrc h src =>
    exact ran_sequential (show execOrBSSrc _ _ s = _ from ht) (fun _ => rfl) rfl <|
      withSrc_leaves s fun _ u => .atHalf (aluOr_leaves u _ _ _)
  case tstImm =>
    exact ran_sequential (show execTstImm _ _ s = _ from ht) (fun _ => rfl) rfl <| aluTest_leaves _ _ _ aluAnd_kept _
  case tstSrc =>
    exact ran_sequential (show execTstSrc _ _ _ s = _ from ht) (fun _ => rfl) rfl <|
      withSrc_leaves s fun _ u => aluTest_leaves u _ _ aluAnd_kept _
  case notG =>
    exact ran_sequential (show execNotG _ _ s = _ from ht) (fun _ => rfl) rfl <| .atLoc (unNot_leaves s _ _)
  case notBS =>
    exact ran_sequential (show execNotBS _ s = _ from ht) (fun _ => rfl) rfl <| .atShort (unNot_leaves s _ _)
  case incB =>
    exact ran_sequential (show execIncB _ s = _ from ht) (fun _ => rfl) rfl <| .atShort (unInc_leaves s _ _)
  case decB =>
    exact ran_sequential (show execDecB _ s = _ from ht) (fun _ => rfl) rfl <| .atShort (unDec_leaves s _ _)
  case incW a =>
    exact ran_sequential (show execIncW _ s = _ from ht) (fun _ => rfl) rfl <| unInc_leaves s .w (.addr a)
  case decW a =>
    exact ran_sequential (show execDecW _ s = _ from ht) (fun _ => rfl) rfl <| unDec_leaves s .w (.addr a)
  case movGSrc =>
    exact ran_sequential (show execMovGSrc _ _ _ s = _ from ht) (fun _ => rfl) rfl <|
      withSrc_leaves s fun _ u => .atLoc (moveTo_leaves u _ _ .mov _)
  case movGFromSp =>
    exact ran_sequential (show execMovGFromSp _ _ _ s = _ from ht) (fun _ => rfl) rfl <|
      withSrc_leaves s fun _ u => .atLoc (moveTo_leaves u _ _ .mov _)
  case movGToSp =>
    exact ran_sequential (show execMovGToSp _ _ _ s = _ from ht) (fun _ => rfl) rfl <|
      withSrc_leaves s fun _ u => moveTo_leaves u _ _ .mov _
  case movGImm =>
    exact ran_sequential (show execMovGImm _ _ s = _ from ht) (fun _ => rfl) rfl <| .atLoc (moveTo_leaves s _ _ .mov _)
  case movQ =>
    exact ran_sequential (show execMovQ _ _ _ s = _ from ht) (fun _ => rfl) rfl <| .atLoc (moveTo_leaves s _ _ .mov _)
  case movBSImm =>
    exact ran_sequential (show execMovBSImm _ _ s = _ from ht) (fun _ => rfl) rfl <|
      .atShort (moveTo_leaves s _ _ .mov _)
  case movBZ =>
    exact ran_sequential (show execMovBZ _ s = _ from ht) (fun _ => rfl) rfl <| .atShort (moveTo_leaves s _ _ .mov _)
  case movWSImmAn v a =>
    exact ran_sequential (show execMovWSImmAn _ _ s = _ from ht) (fun _ => rfl) rfl <|
      moveTo_leaves s .w (.addr a) .mov v
  case movBSImmAn v a =>
    exact ran_sequential (show execMovBSImmAn _ _ s = _ from ht) (fun _ => rfl) rfl <|
      moveTo_leaves s .b (.addr a) .mov v
  case movBSHalfDest h m =>
    exact ran_sequential (show execMovBSHalfDest _ _ s = _ from ht) (fun _ => rfl) rfl <|
      moveTo_leaves s .b (.mem (near (s.shortEa m))) .mov _
  case movBSSrcHalf h src =>
    exact ran_sequential (show execMovBSSrcHalf _ _ s = _ from ht) (fun _ => rfl) rfl <|
      withSrc_leaves s fun _ u => .atHalf (moveTo_leaves u _ _ .mov _)
  case movBSSrcAn a src =>
    exact ran_sequential (show execMovBSSrcAn _ _ s = _ from ht) (fun _ => rfl) rfl <|
      withSrc_leaves s fun _ u => moveTo_leaves u .b (.addr a) .mov _
  case mova src r =>
    exact ran_sequential (show execMova _ _ s = _ from ht) (fun _ => rfl) rfl <| (setReg16_effect s r _).leaves
  case movDirToR0L k src =>
    exact ran_sequential (show execMovDirToR0L _ _ s = _ from ht) (fun _ => rfl) rfl <|
      ((readLoc_effect .b (s.loc src) s).after (setDreg8_effect _ .d0 _)).leaves
  case movDirFromR0L k dst =>
    exact ran_sequential (show execMovDirFromR0L _ _ s = _ from ht) (fun _ => rfl) rfl <|
      .after (readLoc_effect .b (s.loc dst) s) (.atLoc (writeLoc_leaves .other _ _ _ _))
  case ldeAbs20 =>
    exact ran_sequential (show execLdeAbs20 _ _ _ s = _ from ht) (fun _ => rfl) rfl <| ldeFrom_leaves _ _ _ s
  case ldeDsp20 =>
    exact ran_sequential (show execLdeDsp20 _ _ _ s = _ from ht) (fun _ => rfl) rfl <| ldeFrom_leaves _ _ _ s
  case ldeA1A0 =>
    exact ran_sequential (show execLdeA1A0 _ _ s = _ from ht) (fun _ => rfl) rfl <| ldeFrom_leaves _ _ _ s
  case steAbs20 =>
    exact ran_sequential (show execSteAbs20 _ _ _ s = _ from ht) (fun _ => rfl) rfl <| steTo_leaves _ _ _ s
  case steDsp20 =>
    exact ran_sequential (show execSteDsp20 _ _ _ s = _ from ht) (fun _ => rfl) rfl <| steTo_leaves _ _ _ s
  case steA1A0 =>
    exact ran_sequential (show execSteA1A0 _ _ s = _ from ht) (fun _ => rfl) rfl <| steTo_leaves _ _ _ s
  case stz v dst =>
    exact ran_sequential (show execStz _ _ s = _ from ht) (fun _ => rfl) rfl <| stz_leaves v dst s
  case stnz v dst =>
    exact ran_sequential (show execStnz _ _ s = _ from ht) (fun _ => rfl) rfl <| stnz_leaves v dst s
  case stzx v1 v2 dst =>
    exact ran_sequential (show execStzx _ _ _ s = _ from ht) (fun _ => rfl) rfl <|
      .atShort (writeLoc_leaves .other _ _ _ s)
  case xchg z r dst =>
    exact ran_sequential (show execXchg _ _ _ s = _ from ht) (fun _ => rfl) rfl <| xchg_leaves z r dst s
  case stcDest =>
    exact ran_sequential (show execStcDest _ _ s = _ from ht) (fun _ => rfl) rfl <|
      .atLoc (writeLoc_leaves .other _ _ _ s)
  case stcPc dst =>
    exact ran_sequential (show execStcPc _ s = _ from ht) (fun _ => rfl) rfl <| stcPc_leaves dst _ s
  case pushGImm v =>
    exact ran_sequential (show execPushGImm _ s = _ from ht) (fun _ => rfl) rfl <| pushSized_leaves _ _ s
  case pushG z src =>
    exact ran_sequential (show execPushG _ _ s = _ from ht) (fun _ => rfl) rfl <| pushLoc_leaves z (s.loc src) s
  case pushBS h =>
    exact ran_sequential (show execPushBS _ s = _ from ht) (fun _ => rfl) rfl <| push8_leaves _ s
  case pushWS a =>
    exact ran_sequential (show execPushWS _ s = _ from ht) (fun _ => rfl) rfl <| push16_leaves _ s
  case pusha src =>
    exact ran_sequential (show execPusha _ s = _ from ht) (fun _ => rfl) rfl <| push16_leaves _ s
  case pushc c =>
    exact ran_sequential (show execPushc _ s = _ from ht) (fun _ => rfl) rfl <| push16_leaves _ s
  case pushm list =>
    exact ran_sequential (show execPushm _ s = _ from ht) (fun _ => rfl) rfl <| pushRegs_leaves _ s
  case popG z dst =>
    exact ran_sequential (show execPopG _ _ s = _ from ht) (fun _ => rfl) rfl <| popOperand_leaves z dst s
  case popBS h =>
    exact ran_sequential (show execPopBS _ s = _ from ht) (fun _ => rfl) rfl <| (pop8Half_effect h s).leaves
  case popWS a =>
    exact ran_sequential (show execPopWS _ s = _ from ht) (fun _ => rfl) rfl <|
      ((pop16_effect s).thenParts (setAreg_effect _ a _) (by simp)).leaves
  case popm list =>
    exact ran_sequential (show execPopm _ s = _ from ht) (fun _ => rfl) rfl <| (popRegs_effect _ s).leaves
  case mulImm v dst =>
    exact ran_sequential (show execMulImm _ _ s = _ from ht) (fun _ => rfl) rfl <| mulTo_leaves true _ _ dst s s
  case muluImm v dst =>
    exact ran_sequential (show execMuluImm _ _ s = _ from ht) (fun _ => rfl) rfl <| mulTo_leaves false _ _ dst s s
  case mulSrc z src dst =>
    exact ran_sequential (show execMulSrc _ _ _ s = _ from ht) (fun _ => rfl) rfl <|
      withSrc_leaves s fun v u => mulTo_leaves true z v dst s u
  case muluSrc z src dst =>
    exact ran_sequential (show execMuluSrc _ _ _ s = _ from ht) (fun _ => rfl) rfl <|
      withSrc_leaves s fun v u => mulTo_leaves false z v dst s u
  case extsB dst =>
    exact ran_sequential (show execExtsB _ s = _ from ht) (fun _ => rfl) rfl <| extsTo_leaves dst s
  case extsW =>
    exact ran_sequential (show execExtsW s = _ from ht) (fun _ => rfl) rfl <| (setDreg16_effect s .d2 _).leaves
  case divImm v =>
    exact ran_sequential (show execDivImm _ s = _ from ht) (fun _ => rfl) rfl <| (divBy_effect .div _ _ s).leaves
  case divuImm v =>
    exact ran_sequential (show execDivuImm _ s = _ from ht) (fun _ => rfl) rfl <| (divBy_effect .divu _ _ s).leaves
  case divxImm v =>
    exact ran_sequential (show execDivxImm _ s = _ from ht) (fun _ => rfl) rfl <| (divBy_effect .divx _ _ s).leaves
  case divSrc z src =>
    exact ran_sequential (show execDivSrc _ _ s = _ from ht) (fun _ => rfl) rfl <| (divByLoc_effect .div z _ s).leaves
  case divuSrc z src =>
    exact ran_sequential (show execDivuSrc _ _ s = _ from ht) (fun _ => rfl) rfl <| (divByLoc_effect .divu z _ s).leaves
  case divxSrc z src =>
    exact ran_sequential (show execDivxSrc _ _ s = _ from ht) (fun _ => rfl) rfl <| (divByLoc_effect .divx z _ s).leaves
  case bclrG =>
    exact ran_sequential (show execBclrG _ s = _ from ht) (fun _ => rfl) rfl <|
      .atBit (bitModify_leaves bitNoFlags_kept (by simp) _ _ s)
  case bsetG =>
    exact ran_sequential (show execBsetG _ s = _ from ht) (fun _ => rfl) rfl <|
      .atBit (bitModify_leaves bitNoFlags_kept (by simp) _ _ s)
  case bnotG =>
    exact ran_sequential (show execBnotG _ s = _ from ht) (fun _ => rfl) rfl <|
      .atBit (bitModify_leaves bitNoFlags_kept (by simp) _ _ s)
  case bmcnd =>
    exact ran_sequential (show execBmcnd _ _ s = _ from ht) (fun _ => rfl) rfl <|
      .atBit (bitModify_leaves bitNoFlags_kept (by simp) _ _ s)
  case bclrS n d =>
    exact ran_sequential (show execBclrS _ _ s = _ from ht) (fun _ => rfl) rfl <|
      bitModify_leaves bitNoFlags_kept (by simp) _ (s.shortBit n d) s
  case bsetS n d =>
    exact ran_sequential (show execBsetS _ _ s = _ from ht) (fun _ => rfl) rfl <|
      bitModify_leaves bitNoFlags_kept (by simp) _ (s.shortBit n d) s
  case bnotS n d =>
    exact ran_sequential (show execBnotS _ _ s = _ from ht) (fun _ => rfl) rfl <|
      bitModify_leaves bitNoFlags_kept (by simp) _ (s.shortBit n d) s
  case enter v =>
    exact ran_sequential (show execEnter _ s = _ from ht) (fun _ => rfl) rfl <| enter_leaves v s
  case ldctx num table =>
    exact ran_sequential (show execLdctx _ _ s = _ from ht) (fun _ => rfl) rfl <| (ldctx_effect num table s).leaves
  case stctx num table =>
    exact ran_sequential (show execStctx _ _ s = _ from ht) (fun _ => rfl) rfl <| stctx_leaves num table s
  case nop =>
    exact ran_sequential (show execNop s = _ from ht) (fun _ => rfl) rfl <| (Effect.refl s).leaves
  case wait =>
    exact ran_sequential (show execWait s = _ from ht) (fun _ => rfl) rfl <| (waiting_effect s true).leaves
  all_goals first
    | exact absurd hpc.symm Bool.false_ne_true
    | exact absurd hd.symm Bool.false_ne_true
    | exact absurd ho (Nat.succ_ne_zero 2)

end

theorem delaysI_opensIpl_of_marks {i : Instr} (h : marks i = []) : delaysI i = false ∧ opensIpl i = 0 := by
  simp_all [marks]

/-- Every instruction is its effect, and then its end. -/
theorem exec_ran {i : Instr} {s t : State} (ht : exec i s = .next t) : Ran i s t := by
  cases hpc : writesPc i with
  | true => exact ran_of_writesPc hpc ht
  | false =>
    by_cases hm : marks i = []
    · obtain ⟨hd, ho⟩ := delaysI_opensIpl_of_marks hm
      exact ran_of_plain ht hpc hd ho
    · exact ran_of_marks hpc hm ht

end Sys2Proof.Machine
end

section
/-! PROOFS. The frames of registers and flags (R22, R51) and the next address (R32). -/

namespace Sys2Proof.Laws.Encoding

open Sys2Proof.Machine

/-- The statements about the encodings, gathered. -/
theorem statement (i : Instr) : Statement i :=
  match i with
  | .brk => brk | .movBSHalfDest .. => movBSHalfDest .. | .nop => nop | .movBSSrcHalf .. => movBSSrcHalf ..
  | .andBSSrc .. => andBSSrc .. | .orBSSrc .. => orBSSrc .. | .addBSSrc .. => addBSSrc ..
  | .subBSSrc .. => subBSSrc .. | .movBSSrcAn .. => movBSSrcAn .. | .cmpBSSrc .. => cmpBSSrc ..
  | .bclrS .. => bclrS .. | .bsetS .. => bsetS .. | .bnotS .. => bnotS .. | .btstS .. => btstS ..
  | .jmpS .. => jmpS .. | .jcnd8 .. => jcnd8 .. | .muluSrc .. => muluSrc .. | .movGSrc .. => movGSrc ..
  | .steAbs20 .. => steAbs20 .. | .steDsp20 .. => steDsp20 .. | .steA1A0 .. => steA1A0 ..
  | .movGToSp .. => movGToSp .. | .pushG .. => pushG .. | .neg .. => neg .. | .rotR1H .. => rotR1H ..
  | .notG .. => notG .. | .ldeAbs20 .. => ldeAbs20 .. | .ldeDsp20 .. => ldeDsp20 .. | .ldeA1A0 .. => ldeA1A0 ..
  | .movGFromSp .. => movGFromSp .. | .movGImm .. => movGImm .. | .popG .. => popG .. | .shlR1H .. => shlR1H ..
  | .shaR1H .. => shaR1H .. | .tstImm .. => tstImm .. | .xorImm .. => xorImm .. | .andGImm .. => andGImm ..
  | .orGImm .. => orGImm .. | .addGImm .. => addGImm .. | .subGImm .. => subGImm .. | .adcImm .. => adcImm ..
  | .sbbImm .. => sbbImm .. | .cmpGImm .. => cmpGImm .. | .divxSrc .. => divxSrc .. | .rolc .. => rolc ..
  | .rorc .. => rorc .. | .divuSrc .. => divuSrc .. | .divSrc .. => divSrc .. | .adcf .. => adcf ..
  | .abs .. => abs .. | .mulSrc .. => mulSrc .. | .xchg .. => xchg .. | .ldcSrc .. => ldcSrc ..
  | .stcDest .. => stcDest .. | .movDirToR0L .. => movDirToR0L .. | .movDirFromR0L .. => movDirFromR0L ..
  | .jmpiA .. => jmpiA .. | .jsriA .. => jsriA .. | .jmpiW .. => jmpiW .. | .jsriW .. => jsriW ..
  | .muluImm .. => muluImm .. | .mulImm .. => mulImm .. | .extsB .. => extsB .. | .pusha .. => pusha ..
  | .ldipl .. => ldipl .. | .addQSp .. => addQSp .. | .stcPc .. => stcPc .. | .jcnd16 .. => jcnd16 ..
  | .bmcndC .. => bmcndC .. | .divuImm .. => divuImm .. | .divImm .. => divImm .. | .pushGImm .. => pushGImm ..
  | .divxImm .. => divxImm .. | .daddBReg => daddBReg | .daddWReg => daddWReg | .dsubBReg => dsubBReg
  | .dsubWReg => dsubWReg | .dadcBReg => dadcBReg | .dadcWReg => dadcWReg | .dsbbBReg => dsbbBReg
  | .dsbbWReg => dsbbWReg | .smovf .. => smovf .. | .smovb .. => smovb .. | .sstr .. => sstr ..
  | .addGSp .. => addGSp .. | .daddBImm .. => daddBImm .. | .daddWImm .. => daddWImm .. | .dsubBImm .. => dsubBImm ..
  | .dsubWImm .. => dsubWImm .. | .dadcBImm .. => dadcBImm .. | .dadcWImm .. => dadcWImm ..
  | .dsbbBImm .. => dsbbBImm .. | .dsbbWImm .. => dsbbWImm .. | .ldctx .. => ldctx .. | .stctx .. => stctx ..
  | .rmpa .. => rmpa .. | .enter .. => enter .. | .exitd => exitd | .extsW => extsW | .wait => wait
  | .btstc .. => btstc .. | .btsts .. => btsts .. | .bmcnd .. => bmcnd .. | .bntst .. => bntst ..
  | .band .. => band .. | .bnand .. => bnand .. | .bor .. => bor .. | .bnor .. => bnor .. | .bclrG .. => bclrG ..
  | .bsetG .. => bsetG .. | .bnotG .. => bnotG .. | .btstG .. => btstG .. | .bxor .. => bxor ..
  | .bnxor .. => bnxor .. | .tstSrc .. => tstSrc .. | .pushBS .. => pushBS .. | .addBSImm .. => addBSImm ..
  | .xorSrc .. => xorSrc .. | .subBSImm .. => subBSImm .. | .andGSrc .. => andGSrc .. | .popBS .. => popBS ..
  | .andBSImm .. => andBSImm .. | .orGSrc .. => orGSrc .. | .orBSImm .. => orBSImm .. | .addGSrc .. => addGSrc ..
  | .movWSImmAn .. => movWSImmAn .. | .incB .. => incB .. | .subGSrc .. => subGSrc .. | .decB .. => decB ..
  | .adcSrc .. => adcSrc .. | .incW .. => incW .. | .movBZ .. => movBZ .. | .sbbSrc .. => sbbSrc ..
  | .notBS .. => notBS .. | .cmpGSrc .. => cmpGSrc .. | .pushWS .. => pushWS .. | .movBSImm .. => movBSImm ..
  | .addQ .. => addQ .. | .stz .. => stz .. | .cmpQ .. => cmpQ .. | .popWS .. => popWS .. | .stnz .. => stnz ..
  | .movQ .. => movQ .. | .stzx .. => stzx .. | .rotImm .. => rotImm .. | .movBSImmAn .. => movBSImmAn ..
  | .cmpBSImm .. => cmpBSImm .. | .shlImm .. => shlImm .. | .ldcImm .. => ldcImm .. | .shlLR1H .. => shlLR1H ..
  | .shaLR1H .. => shaLR1H .. | .pushc .. => pushc .. | .popc .. => popc .. | .fset .. => fset ..
  | .fclr .. => fclr .. | .mova .. => mova .. | .shlLImm .. => shlLImm .. | .shaLImm .. => shaLImm ..
  | .int .. => int .. | .pushm .. => pushm .. | .popm .. => popm .. | .jmps .. => jmps .. | .jsrs .. => jsrs ..
  | .shaImm .. => shaImm .. | .decW .. => decW .. | .rts => rts | .jmpW .. => jmpW .. | .jsrW .. => jsrW ..
  | .into => into | .adjnz .. => adjnz .. | .sbjnz .. => sbjnz .. | .reit => reit | .jmpA .. => jmpA ..
  | .jsrA .. => jsrA .. | .jmpB .. => jmpB .. | .und => und | .ldintb .. => ldintb ..

end Sys2Proof.Laws.Encoding

namespace Sys2Proof.Machine

section
variable {i : Instr} {s t u : State}

theorem afterPopc_eq (s u : State) : ∃ l, afterPopc s u = { u with sources := l } := by
  unfold afterPopc
  split
  · exact ⟨_, rfl⟩
  · exact ⟨u.sources, rfl⟩

theorem windowsEnded_eq (i : Instr) (s u : State) : ∃ l, windowsEnded i s u = { u with sources := l } := by
  cases i with
  | popc => exact afterPopc_eq s u
  | _ => exact ⟨u.sources, rfl⟩

/-- The end of an instruction changes `pc`, the queue and the windows of the sources only. -/
theorem ended_eq (i : Instr) (s u : State) : ∃ l a q, ended i s u = { u with sources := l, pc := a, queue := q } := by
  obtain ⟨l, hl⟩ := windowsEnded_eq i s u
  unfold ended
  split
  · exact ⟨u.sources, u.pc, u.queue, rfl⟩
  · rw [hl]
    exact ⟨l, _, _, rfl⟩

theorem ended_pc (h : writesPc i = false) : (ended i s u).pc = u.pc + BitVec.ofNat 20 i.length := by
  obtain ⟨l, hl⟩ := windowsEnded_eq i s u
  rw [ended, h, hl]
  rfl

/-- A part that neither the instruction nor its end changes is as before. -/
theorem Ran.kept (h : Ran i s t) {p : Part} (hp : p ∉ changedParts i s) (hpc : p ≠ .pc) : p.kept s t := by
  obtain ⟨u, hu, rfl⟩ := h
  obtain ⟨l, a, q, ha⟩ := ended_eq i s u
  have hk := hu.kept p hp
  rw [ha]
  cases p with
  | pc => exact absurd rfl hpc
  | _ => exact hk

theorem Ran.otherBank (h : Ran i s t) : t.bankNo (!s.flg.b) = s.bankNo (!s.flg.b) := by
  obtain ⟨u, hu, rfl⟩ := h
  obtain ⟨l, a, q, ha⟩ := ended_eq i s u
  rw [ha]
  exact hu.otherBank

theorem reg_mem_changedParts {n : RegName} : .reg n ∈ changedParts i s ↔ n ∈ changedRegs i s := by
  simp [changedParts, marks]

theorem flag_mem_changedParts {f : FlagName} : .flag f ∈ changedParts i s ↔ f ∈ changedFlags i s := by
  simp [changedParts, marks]

theorem ipl_mem_changedParts : .ipl ∈ changedParts i s ↔ changesIpl i = true := by
  simp [changedParts, marks]

theorem pc_mem_changedParts : .pc ∈ changedParts i s ↔ writesPc i = true := by
  simp [changedParts, marks]

/-- Settles O14: an instruction changes registers only where it names them, and not in the other bank. -/
theorem registerFrame : Obligations.RegisterFrame := fun _ _ _ ht =>
  ⟨fun n hn => (exec_ran ht).kept (p := .reg n) (reg_mem_changedParts.not.mpr hn) nofun, (exec_ran ht).otherBank⟩

/-- Settles O15: an instruction changes only the flags listed for it. -/
theorem flagFrame : Obligations.FlagFrame := fun _ _ _ ht =>
  ⟨fun f hf => (exec_ran ht).kept (p := .flag f) (flag_mem_changedParts.not.mpr hf) nofun,
    fun hi => (exec_ran ht).kept (p := .ipl) (ipl_mem_changedParts.not.mpr (by simp [hi])) nofun⟩

/-- Where the instruction does not write `pc`, it ends at the next address. -/
theorem exec_pc (ht : exec i s = .next t) (hpc : writesPc i = false) : t.pc = s.pc + BitVec.ofNat 20 i.length := by
  obtain ⟨u, hu, rfl⟩ := exec_ran ht
  have hsame : u.pc = s.pc := hu.kept .pc (pc_mem_changedParts.not.mpr (by simp [hpc]))
  rw [ended_pc hpc, hsame]

end

/-- Settles O16: the encoding is as long as the instruction, and `pc` moves on by that length. -/
theorem nextPc : Obligations.NextPc :=
  ⟨fun i => (Laws.Encoding.statement i).1, fun _ _ _ => exec_pc, rfl, fun _ => rfl, fun _ => rfl⟩

end Sys2Proof.Machine
end

section
/-! PROOFS. Reset (R62, R601) and the stack primitives (R104). -/

namespace Sys2Proof.Machine

/-! Reset. -/

/-- Settles O8: the registers after reset. -/
theorem resetState : Obligations.ResetState := ⟨rfl, rfl, rfl, rfl, rfl, rfl, rfl⟩

/-- The reset state meets the invariant: nothing is in progress, and there are no queue bytes, sources or windows. -/
theorem reset_consistent : Consistent State.reset where
  memory := reset_memWf
  progress _ h := nomatch h
  queue _ h := nomatch h
  iplWindows _ h := nomatch h
  levelWindows _ h := nomatch h

/-- Settles O9: the hidden state after reset, and the invariant there. -/
theorem resetConsistent : Obligations.ResetConsistent := ⟨rfl, rfl, rfl, rfl, reset_consistent⟩

theorem flgZero_toWord : Flg.zero.toWord = 0#16 := rfl

/-- An asserted reset comes before everything else (R570). -/
theorem step_of_resetReq {s : State} (h : s.resetReq = true) : step s = .next (hardReset s) := by
  simp [step, cpuStep, h]

/-! The stack primitives. -/

/-- The stack pointer that U does not select is the same in both states. -/
def otherSpKept (s t : State) : Prop := if s.flg.u then t.isp = s.isp else t.usp = s.usp

theorem setSp_otherSpKept (s : State) (v : Word) : otherSpKept s (s.setSp v) := by
  cases h : s.flg.u <;> simp [otherSpKept, State.setSp, h]

/-- A memory access leaves both stack pointers. -/
theorem Touches.otherSpKept {l : List Addr} {s t u : State} (h : otherSpKept s t) (k : Touches l t u) :
    Machine.otherSpKept s u := by
  rw [k.rest]
  exact h

theorem push8_result {v : Byte} {s : State} (h : s.writable (near (s.sp - 1)) = true) :
    ∃ t, push8 v s = .next t ∧ t.sp = s.sp - 1 ∧ memGet t.mem (near t.sp).toNat = v ∧
      (∀ a : Addr, a ≠ near t.sp → memGet t.mem a.toNat = memGet s.mem a.toNat) ∧ otherSpKept s t := by
  have hsp : (s.setSp (s.sp - 1)).sp = s.sp - 1 := State.setSp_sp s _
  have ht := (stored_touches .other (near (s.sp - 1)) v (s.setSp (s.sp - 1))).trans
    (record_touches .write (near (s.sp - 1)) 1 (v.setWidth 32) _)
  refine ⟨_, push8_eq_next.mpr ⟨h, rfl⟩, ht.sp.trans hsp, ?_, ?_, ht.otherSpKept (setSp_otherSpKept s _)⟩
  · rw [ht.sp, hsp, State.record_mem]
    exact stored_read_same ..
  · rw [ht.sp, hsp]
    exact fun a ha => ht.mem a (by simpa using ha)

theorem push16_result {v : Word} {s : State} (h0 : s.writable (near (s.sp - 2)) = true)
    (h1 : s.writable (near (s.sp - 2) + 1) = true) :
    ∃ t, push16 v s = .next t ∧ t.sp = s.sp - 2 ∧ wordAt t.mem (near t.sp) = v ∧
      (∀ a : Addr, a ≠ near t.sp → a ≠ near t.sp + 1 → memGet t.mem a.toNat = memGet s.mem a.toNat) ∧
      otherSpKept s t := by
  have hsp : (s.setSp (s.sp - 2)).sp = s.sp - 2 := State.setSp_sp s _
  have hno {a : Addr} (ha : a ∈ [near (s.sp - 2), near (s.sp - 2) + 1]) : s.writable a = true := by
    rcases List.mem_pair.mp ha with rfl | rfl
    · exact h0
    · exact h1
  rcases writeWord_stores .other (near (s.sp - 2)) v (s.setSp (s.sp - 2)) with
    ⟨-, t, hu, ht, hlo, hhi⟩ | ⟨a, ha, hrom, -⟩ | ⟨a, ha, -, hhole, -⟩
  · refine ⟨t, hu, ht.sp.trans hsp, ?_, ?_, ht.otherSpKept (setSp_otherSpKept s _)⟩
    · rw [ht.sp, hsp, wordAt, hlo, hhi, hiByte_loByte]
    · rw [ht.sp, hsp]
      exact fun a ha ha1 => ht.mem a (by simpa using ⟨ha, ha1⟩)
  · have hw := hno ha
    rw [State.writable, show s.isRom a = true from hrom] at hw
    cases hw
  · have hw := hno ha
    rw [State.writable, show s.isHole a = true from hhole, Bool.not_true, Bool.and_false] at hw
    cases hw

theorem readWord_plain {a : Addr} {s : State} (h0 : s.plain a) (h1 : s.plain (a + 1)) :
    readWord a s = (wordAt s.mem a, s) := by
  have hs : s.touchesSfr a 2 = false := by
    simpa [State.touchesSfr, List.range_succ] using ⟨h0.2.2.1, h1.2.2.1⟩
  have hw : busReadWord a s = (wordAt s.mem a, s) := by
    simp only [busReadWord, busRead_plain h0, busRead_plain h1, wordAt]
  rw [readWord, recordRead, hw, record_of_outside hs]

theorem pop8_result (s : State) : (pop8 s).2.sp = s.sp + 1 ∧ (pop8 s).2.mem = s.mem ∧
    (s.plain (near s.sp) → (pop8 s).1 = memGet s.mem (near s.sp).toNat) ∧ otherSpKept s (pop8 s).2 := by
  have hread := readByte_touches (near s.sp) s
  refine ⟨State.setSp_sp _ _, rfl, fun h => ?_, ?_⟩
  · exact congrArg Prod.fst (readByte_plain h)
  · have hk := setSp_otherSpKept (readByte (near s.sp) s).2 (s.sp + 1)
    unfold otherSpKept at hk ⊢
    rw [hread.rest] at hk
    exact hk

theorem pop16_result (s : State) : (pop16 s).2.sp = s.sp + 2 ∧ (pop16 s).2.mem = s.mem ∧
    (s.plain (near s.sp) → s.plain (near s.sp + 1) → (pop16 s).1 = wordAt s.mem (near s.sp)) ∧
    otherSpKept s (pop16 s).2 := by
  have hread := readWord_touches (near s.sp) s
  refine ⟨State.setSp_sp _ _, rfl, fun h0 h1 => ?_, ?_⟩
  · exact congrArg Prod.fst (readWord_plain h0 h1)
  · have hk := setSp_otherSpKept (readWord (near s.sp) s).2 (s.sp + 2)
    unfold otherSpKept at hk ⊢
    rw [hread.rest] at hk
    exact hk

/-- Settles O20: the four stack primitives on the selected stack pointer. -/
theorem stackPrimitives : Obligations.StackPrimitives :=
  ⟨fun _ => rfl, fun _ _ => push8_result, fun _ _ => push16_result, pop8_result, pop16_result⟩

/-! The step after reset is asserted. Its theorem has a namespace of its own: the model has a `hardReset` too. -/

/-- Memory above RAM is as before a reset. -/
theorem hardReset_mem_above {s : State} {a : Addr} (h : s.product.ramTop.toNat < a.toNat) :
    memGet (hardReset s).mem a.toNat = memGet s.mem a.toNat := memFill_above _ _ _ _ h

namespace StateProofs

/-- Settles O32: the step after reset is asserted. -/
theorem hardReset : Obligations.HardReset := fun s h =>
  ⟨Machine.hardReset s, step_of_resetReq h, rfl, rfl, rfl, rfl, rfl, flgZero_toWord, rfl, rfl, rfl, rfl, rfl, rfl, rfl,
    fun _ => hardReset_mem_above⟩

end StateProofs

end Sys2Proof.Machine
end

section
/-! PROOFS. What the boundary after an instruction sees (R549, R558, R559, R613, R615). -/

namespace Sys2Proof.Machine

/-! No byte is stored to twice by one instruction. -/

theorem sizeAt_nodup (z : Size) (a : Addr) : (sizeAt z a).Nodup := by
  cases z
  · exact List.nodup_singleton a
  · simp [sizeAt]

theorem locBytes_nodup (z : Size) (l : Loc) : (locBytes z l).Nodup := by
  cases l with
  | mem a => exact sizeAt_nodup z a
  | _ => exact List.nodup_nil

theorem tripleAt_nodup (a : Addr) : (tripleAt a).Nodup := by
  simp only [tripleAt, List.nodup_cons, List.mem_cons, List.not_mem_nil, List.nodup_nil, or_false, not_or]
  refine ⟨⟨?_, ?_⟩, ?_, not_false, trivial⟩ <;> bv_omega

theorem productBytes_nodup (z : Size) (l : Loc) : (productBytes z l).Nodup := by
  cases l with
  | mem a =>
    cases z
    · exact sizeAt_nodup .w a
    · simp only [productBytes, List.nodup_cons, List.mem_cons, List.not_mem_nil, List.nodup_nil, or_false, not_or]
      refine ⟨⟨?_, ?_, ?_⟩, ⟨?_, ?_⟩, ?_, not_false, trivial⟩ <;> bv_omega
  | _ => cases z <;> exact List.nodup_nil

theorem bitBytes_nodup (l : BitLoc) : (bitBytes l).Nodup := by
  cases l with
  | mem a n => exact List.nodup_singleton a
  | reg r n => exact List.nodup_nil

/-- The bytes of `n` pushes are the two of each word. -/
theorem mem_pushedBytes {n : Nat} {sp : Word} {a : Addr} (h : a ∈ pushedBytes n sp) :
    ∃ k < n, a = near (sp - BitVec.ofNat 16 (2 * (k + 1))) ∨ a = near (sp - BitVec.ofNat 16 (2 * (k + 1))) + 1 := by
  induction n generalizing sp with
  | zero => cases h
  | succ n ih =>
    rcases List.mem_append.mp h with h | h
    · exact ⟨0, Nat.succ_pos n, List.mem_pair.mp h⟩
    · obtain ⟨k, hk, ha⟩ := ih h
      have hsub : sp - 2 - BitVec.ofNat 16 (2 * (k + 1)) = sp - BitVec.ofNat 16 (2 * (k + 1 + 1)) := by
        apply BitVec.eq_of_toNat_eq
        simp only [BitVec.ofNat_eq_ofNat, BitVec.toNat_sub, BitVec.toNat_ofNat]
        omega
      exact ⟨k + 1, Nat.succ_lt_succ hk, by rwa [hsub] at ha⟩

theorem pushedBytes_nodup {n : Nat} (hn : n ≤ 8) (sp : Word) : (pushedBytes n sp).Nodup := by
  induction n generalizing sp with
  | zero => exact List.nodup_nil
  | succ n ih =>
    refine List.nodup_append.mpr ⟨sizeAt_nodup .w _, ih (by omega) (sp - 2), fun a ha b hb he => ?_⟩
    obtain ⟨k, hk, hb⟩ := mem_pushedBytes hb
    rcases List.mem_pair.mp ha with ha | ha <;> rcases hb with hb | hb <;>
    · rw [he, hb] at ha
      have hnat := congrArg BitVec.toNat ha
      simp only [near, pushAt, BitVec.ofNat_eq_ofNat, BitVec.toNat_add, BitVec.toNat_sub, BitVec.toNat_ofNat,
        BitVec.toNat_setWidth] at hnat
      omega

theorem callBytes_nodup (sp : Word) : (callBytes sp).Nodup := by
  simp only [callBytes, sizeAt, pushAt, List.cons_append, List.nil_append, List.nodup_cons, List.mem_cons,
    List.not_mem_nil, List.nodup_nil, or_false, not_or, near]
  refine ⟨⟨?_, ?_⟩, ?_, not_false, trivial⟩ <;> bv_omega

theorem nodup_ite {α : Type} {l m : List α} (c : Prop) [Decidable c] (hl : l.Nodup) (hm : m.Nodup) :
    (if c then l else m).Nodup := by
  split
  · exact hl
  · exact hm

theorem length_selected_le (l : List CtxReg) (k : Nat) (list : BitVec 8) : (selected l k list).length ≤ l.length := by
  induction l generalizing k with
  | nil => exact Nat.le_refl 0
  | cons r l ih =>
    have hl := ih (k + 1)
    unfold selected
    split <;> simp only [List.length_cons] <;> omega

/-- An instruction stores to a byte at most once. -/
theorem storedTo_nodup (i : Instr) (s : State) : (storedTo i s).Nodup := by
  cases i
  case neg | notG | ldeAbs20 | ldeDsp20 | ldeA1A0 | movGSrc | movGFromSp | movGImm | popG | xorImm | andGImm | orGImm
      | addGImm | subGImm | adcImm | sbbImm | rolc | rorc | adcf | abs | xchg | stcDest | movDirFromR0L | extsB
      | addBSImm | xorSrc | subBSImm | andGSrc | andBSImm | orGSrc | orBSImm | addGSrc | incB | subGSrc | decB | adcSrc
      | movBZ | sbbSrc | notBS | movBSImm | addQ | movQ | stzx | rotImm | shlImm | shaImm | adjnz | sbjnz =>
    exact locBytes_nodup _ _
  case rotR1H | shlR1H | shaR1H | stnz => exact nodup_ite _ List.nodup_nil (locBytes_nodup _ _)
  case stz => exact nodup_ite _ (locBytes_nodup _ _) List.nodup_nil
  case smovf | smovb | sstr => exact nodup_ite _ List.nodup_nil (sizeAt_nodup _ _)
  case movBSHalfDest => exact List.nodup_singleton _
  case bclrS n d | bsetS n d | bnotS n d => exact bitBytes_nodup (s.shortBit n d)
  case btstc | btsts | bmcnd | bclrG | bsetG | bnotG => exact bitBytes_nodup _
  case muluSrc | mulSrc | muluImm | mulImm => exact productBytes_nodup _ _
  case steAbs20 | steDsp20 | steA1A0 | movGToSp | pushG | pushGImm => exact sizeAt_nodup _ _
  case pusha | enter | pushWS | pushc => exact sizeAt_nodup .w (pushAt .w s.sp)
  case pushBS => exact sizeAt_nodup .b (pushAt .b s.sp)
  case stcPc dst =>
    cases dst with
    | pair p => exact List.nodup_nil
    | mem e => exact tripleAt_nodup _
  case jsriA | jsriW | jsrs | jsrW | jsrA => exact callBytes_nodup s.sp
  case brk | int | und => exact pushedBytes_nodup (by decide) _
  case into => exact nodup_ite _ (pushedBytes_nodup (by decide) _) List.nodup_nil
  case stctx => exact pushedBytes_nodup (length_selected_le ctxRegs 0 _) _
  case pushm => exact pushedBytes_nodup (length_selected_le ctxRegs.reverse 0 _) _
  all_goals exact List.nodup_nil

/-! What the marking instructions leave for the next boundary (R558, R559, R613). -/

/-- The marks of an instruction. -/
structure Marked (i : Instr) (s t : State) : Prop where
  shadow : setsShadow i = true → t.intShadow = true
  prevI : delaysI i = true → t.prevI = some s.flg.i
  iplOld : opensIpl i ≠ 0 → t.iplOld = (s.flg.ipl, opensIpl i + 1) :: s.iplOld

/-- The end of an instruction leaves the marks. -/
theorem Marked.ended {i : Instr} {s u : State} (h : Marked i s u) : Marked i s (ended i s u) := by
  obtain ⟨l, a, q, he⟩ := ended_eq i s u
  rw [he]
  exact ⟨h.shadow, h.prevI, h.iplOld⟩

/-- A load of a control register marks as its instruction does. -/
theorem loadCreg_marked {i : Instr} {c : CReg} {v : Word} {s t : State} (hopen : opensIpl i = if c = .flg then 3 else 0)
    (h : t.iplOld = s.iplOld) : Marked i s (loadCreg c v s t) where
  shadow _ := rfl
  prevI _ := rfl
  iplOld hi := by
    rw [hopen] at hi ⊢
    cases c with
    | flg => exact congrArg (List.cons (s.flg.ipl, 4)) h
    | _ => exact absurd rfl hi

/-- The pop of a `POPC` leaves the windows on IPL. -/
theorem popWord_iplOld (c : CReg) (s : State) :
    (if c = .sp ∨ (c = .isp ∧ s.flg.u = false) then (readWord (near s.sp) s).2
      else (readWord (near s.sp) s).2.setSp (s.sp + 2)).iplOld = s.iplOld := by
  split <;> rfl

theorem exec_marked {i : Instr} {s t : State} (ht : exec i s = .next t) : Marked i s t := by
  cases i
  case ldcImm v c =>
    obtain ⟨-, _, ⟨⟩, rfl⟩ := sequential_eq_next.mp (show execLdcImm v c s = .next t from ht)
    exact (loadCreg_marked (i := .ldcImm v c) rfl rfl).ended
  case ldcSrc src c =>
    obtain ⟨-, _, ⟨⟩, rfl⟩ := sequential_eq_next.mp (show execLdcSrc src c s = .next t from ht)
    exact (loadCreg_marked (i := .ldcSrc src c) rfl ((readLoc_effect .w (s.loc src) s).kept .iplOld nofun)).ended
  case popc c =>
    obtain ⟨-, _, ⟨⟩, rfl⟩ := sequential_eq_next.mp (show execPopc c s = .next t from ht)
    exact (loadCreg_marked (i := .popc c) rfl (popWord_iplOld c s)).ended
  case ldintb v =>
    obtain ⟨-, _, ⟨⟩, rfl⟩ := sequential_eq_next.mp (show execLdintb v s = .next t from ht)
    exact ⟨fun _ => rfl, fun _ => rfl, fun h => absurd rfl h⟩
  case fset f =>
    obtain ⟨-, _, ⟨⟩, rfl⟩ := sequential_eq_next.mp (show execFset f s = .next t from ht)
    exact ⟨nofun, fun _ => rfl, fun h => absurd rfl h⟩
  case fclr f =>
    obtain ⟨-, _, ⟨⟩, rfl⟩ := sequential_eq_next.mp (show execFclr f s = .next t from ht)
    exact ⟨nofun, fun _ => rfl, fun h => absurd rfl h⟩
  case ldipl l =>
    obtain ⟨-, _, ⟨⟩, rfl⟩ := sequential_eq_next.mp (show execLdipl l s = .next t from ht)
    exact ⟨nofun, nofun, fun _ => rfl⟩
  case reit =>
    obtain ⟨-, ⟨⟩⟩ := guarded_eq_next.mp (show execReit s = .next t from ht)
    exact ⟨nofun, nofun, fun _ => rfl⟩
  all_goals exact ⟨nofun, nofun, fun h => absurd rfl h⟩

/-! The windows one boundary later, by the model and by the statement. -/

theorem tickIpl_eq (l : List (BitVec 3 × Nat)) : tickIpl l = laterIpl l := by
  induction l with
  | nil => rfl
  | cons w l ih =>
    by_cases h : w.2 ≤ 1
    · simp_all [tickIpl, laterIpl]
    · simp_all [tickIpl, laterIpl]

theorem tickSource_old (x : Source) : (tickSource x).old = laterWindows x.old := by
  obtain ⟨num, icr, ir, ilvl, old⟩ := x
  simp only [tickSource, laterWindows, openWindows]
  induction old with
  | nil => rfl
  | cons w l ih =>
    by_cases h : w.left ≤ 1
    · simp_all
    · simp_all

section
variable {i : Instr} {s t u : State}

/-! What one instruction leaves for the boundary after it. -/

theorem shadow_mem_changedParts : .shadow ∈ changedParts i s ↔ setsShadow i = true := by
  simp [changedParts, marks]

theorem prevI_mem_changedParts : .prevI ∈ changedParts i s ↔ delaysI i = true := by
  simp [changedParts, marks]

theorem iplOld_mem_changedParts : .iplOld ∈ changedParts i s ↔ opensIpl i ≠ 0 := by
  simp [changedParts, marks]

theorem exec_intShadow (ht : exec i s = .next t) : t.intShadow = (setsShadow i || s.intShadow) := by
  cases h : setsShadow i with
  | true => exact (exec_marked ht).shadow h
  | false => exact (exec_ran ht).kept (p := .shadow) (shadow_mem_changedParts.not.mpr (by simp [h])) nofun

theorem exec_prevI (ht : exec i s = .next t) : t.prevI = if delaysI i then some s.flg.i else s.prevI := by
  cases h : delaysI i with
  | true => exact (exec_marked ht).prevI h
  | false => exact (exec_ran ht).kept (p := .prevI) (prevI_mem_changedParts.not.mpr (by simp [h])) nofun

theorem exec_iplOld (ht : exec i s = .next t) :
    t.iplOld = (if opensIpl i = 0 then [] else [(s.flg.ipl, opensIpl i + 1)]) ++ s.iplOld := by
  by_cases h : opensIpl i = 0
  · rw [if_pos h, List.nil_append]
    exact (exec_ran ht).kept (p := .iplOld) (iplOld_mem_changedParts.not.mpr (not_not.mpr h)) nofun
  · rw [if_neg h]
    exact (exec_marked ht).iplOld h

/-- Requests and the mark of an instruction in progress are not an instruction's to change. -/
theorem exec_requests (ht : exec i s = .next t) :
    t.stepReq = s.stepReq ∧ t.matchReq = s.matchReq ∧ t.resume = s.resume := by
  obtain ⟨u, hu, rfl⟩ := exec_ran ht
  obtain ⟨l, a, q, he⟩ := ended_eq i s u
  have hreq := hu.keeps.requests
  simp only [Prod.mk.injEq] at hreq
  obtain ⟨-, -, -, hstep, -, hmatch⟩ := hreq
  rw [he]
  exact ⟨hstep, hmatch, hu.keeps.resume⟩

/-! Windows on the sources. -/

/-- `POPC` to FLG turned I on. -/
abbrev TurnsIOn (i : Instr) (s t : State) : Prop := i = .popc .flg ∧ s.flg.i = false ∧ t.flg.i = true

/-- The windows that the end of an instruction leaves. -/
theorem ended_source (h : Effect (storedTo i s) (changedParts i s) s u) {k : Nat} {y : Source}
    (hy : u.sources[k]? = some y) :
    ∃ z : Source, (ended i s u).sources[k]? = some z ∧ z.old = if TurnsIOn i s (ended i s u) then [] else y.old := by
  by_cases hp : ∃ c, i = .popc c
  · obtain ⟨c, rfl⟩ := hp
    have hended : ended (.popc c) s u = (afterPopc s u).advance (Instr.popc c).length := rfl
    have hflg : (ended (.popc c) s u).flg = u.flg := by
      obtain ⟨l, a, q, he⟩ := ended_eq (.popc c) s u
      rw [he]
    unfold TurnsIOn
    rw [hflg, hended, State.advance, afterPopc]
    by_cases hi : s.flg.i = false ∧ u.flg.i = true
    · have hc : c = .flg := by
        by_contra hne
        have hlisted : .i ∉ changedFlags (.popc c) s :=
          show .i ∉ if c = .flg then allFlags else [] by simp [hne]
        have hkept : u.flg.i = s.flg.i := h.flag (f := .i) (flag_mem_changedParts.not.mpr hlisted)
        rw [hi.1, hi.2] at hkept
        cases hkept
      exact ⟨{ y with old := [] }, by simp [hi, hy], by simp [hi, hc]⟩
    · refine ⟨y, ?_, by rw [if_neg fun hc => hi hc.2]⟩
      rw [if_neg (by simpa using hi)]
      exact hy
  · have hsame : (ended i s u).sources = u.sources := by
      unfold ended
      split
      · rfl
      · cases i with
        | popc c => exact absurd ⟨c, rfl⟩ hp
        | _ => rfl
    refine ⟨y, hsame ▸ hy, ?_⟩
    rw [if_neg fun hc => hp ⟨_, hc.1⟩]

/-- The windows on a source after an instruction: one more if it stored to the source's register (R615), none if `POPC`
turned I on, and otherwise the same. -/
theorem exec_source (ht : exec i s = .next t) {k : Nat} {x : Source} (hx : s.sources[k]? = some x) :
    ∃ y : Source, t.sources[k]? = some y ∧
      (x.icr ∈ storedTo i s →
        ∃ ir, y.old = { level := x.ilvl, ir := ir, left := s.product.storeWindow + 1 } :: x.old) ∧
      (x.icr ∉ storedTo i s → y.old = if TurnsIOn i s t then [] else x.old) := by
  obtain ⟨u, hu, rfl⟩ := exec_ran ht
  obtain ⟨y, hy, ho⟩ := hu.windows k x hx
  obtain ⟨z, hz, hold⟩ := ended_source hu hy
  refine ⟨z, hz, fun hmem => ?_, fun hmem => ?_⟩
  · obtain ⟨ir, hir⟩ := ho.opened (List.count_eq_one_of_mem (storedTo_nodup i s) hmem)
    have hno : ¬TurnsIOn i s (ended i s u) := by
      rintro ⟨rfl, -⟩
      cases hmem
    exact ⟨ir, by rw [hold, if_neg hno, hir]⟩
  · rw [hold, (ho.kept (List.count_eq_zero_of_not_mem hmem)).2]

end

/-! The step that runs an instruction. -/

theorem runInstruction_of_decode {s : State} {i : Instr} {rest : List Byte} (hr : s.resume = none)
    (hd : decode (fetch s).1 = .ok (i, rest)) :
    runInstruction s = runDecoded i { s with draws := (fetch s).2 } := by
  simp [runInstruction, hr, hd]

/-- Where no request is in the way, the boundary is passed and an instruction runs. -/
theorem step_eq_runInstruction {s : State} (h : s.ready) : step s = runInstruction s.passed := by
  obtain ⟨hreset, hwait, -, hhw⟩ := h
  cases hs : s.intShadow with
  | true => simp [step, cpuStep, State.passed, hreset, hwait, hs]
  | false =>
    have hnone : chooseHw s = (none, (chooseHw s).2) := Prod.ext (by simpa [hs] using hhw) rfl
    rw [step, cpuStep, hnone]
    simp [State.passed, hreset, hwait, hs]

theorem step_of_ready {s : State} {i : Instr} {rest : List Byte} (h : s.ready) (hd : decode s.code = .ok (i, rest)) :
    step s = runDecoded i s.fetched := by
  have hres : s.passed.resume = none := by
    obtain ⟨-, -, hres, -⟩ := h
    unfold State.passed
    split <;> exact hres
  rw [step_eq_runInstruction h, runInstruction_of_decode hres hd, State.fetched]

/-- The state in which the fetched instruction runs. -/
theorem fetched_started_eq {s : State} (h : s.resume = none) : ∃ n, s.fetched.started =
    { s with intShadow := false, prevI := none, resume := none, sources := s.sources.map lapseSource, draws := n,
             matchReq := (if s.intShadow then s.matchPending else s.matchReq) } := by
  refine ⟨s.fetched.draws, ?_⟩
  cases hs : s.intShadow <;> simp [State.started, State.fetched, State.passed, hs, h]

/-! The windows of a source over one boundary (R615). -/

theorem openWindows_idem (l : List Window) : openWindows (openWindows l) = openWindows l := by
  simp [openWindows, List.filter_filter]

theorem laterWindows_openWindows (l : List Window) : laterWindows (openWindows l) = laterWindows l := by
  rw [laterWindows, openWindows_idem, ← laterWindows]

/-- A window that has more than one boundary left stays. -/
theorem laterWindows_cons {w : Window} (h : 1 < w.left) (l : List Window) :
    laterWindows (w :: l) = { w with left := w.left - 1 } :: laterWindows l := by
  simp [laterWindows, openWindows, h]

theorem storeWindow_pos (p : Product) : 0 < p.storeWindow := by
  unfold Product.storeWindow
  omega

theorem laterIpl_cons {w : BitVec 3 × Nat} (h : 1 < w.2) (l : List (BitVec 3 × Nat)) :
    laterIpl (w :: l) = (w.1, w.2 - 1) :: laterIpl l := by
  simp [laterIpl, h]

/-! What the completion of an instruction adds. -/

section
variable {i : Instr} {before t : State}

theorem completed_of_resume_none (h : (completed i before t).resume = none) :
    completed i before t = { t.tick with stepReq := t.stepReq || before.flg.d } := by
  unfold completed at h ⊢
  split at h
  · cases h
  · next hc => exact if_neg hc

theorem completed_of_resume_ne_none (ht : t.resume = none) (h : (completed i before t).resume ≠ none) :
    interruptible i = true ∧ completed i before t = { t with resume := some i } := by
  unfold completed at h ⊢
  split at h
  · next hc => exact ⟨(Bool.and_eq_true_iff.mp hc).1, if_pos hc⟩
  · exact absurd ht h

theorem completed_intShadow : (completed i before t).intShadow = t.intShadow := by
  unfold completed
  split <;> rfl

theorem completed_matchReq : (completed i before t).matchReq = t.matchReq := by
  unfold completed
  split <;> rfl

theorem opensIpl_of_interruptible (h : interruptible i = true) : opensIpl i = 0 := by
  cases i <;> first | rfl | cases h

end

/-! The step of a fetched instruction. -/

theorem fetched_flg (s : State) : s.fetched.flg = s.flg := by
  unfold State.fetched State.passed
  split <;> rfl

section
variable {s u : State} {i : Instr} (hres : s.resume = none) (hu : exec i s.fetched.started = .next u)
include hres hu

/-- A source where the instruction has run, before its completion counts the windows. -/
theorem fetched_source {k : Nat} {x : Source} (hx : s.sources[k]? = some x) :
    ∃ y : Source, u.sources[k]? = some y ∧
      (x.icr ∈ storedTo i s.fetched.started →
        ∃ ir, y.old = { level := x.ilvl, ir := ir, left := s.product.storeWindow + 1 } :: openWindows x.old) ∧
      (x.icr ∉ storedTo i s.fetched.started → y.old = if TurnsIOn i s u then [] else openWindows x.old) := by
  obtain ⟨n, hv⟩ := fetched_started_eq hres
  have hflg : s.fetched.started.flg = s.flg := by rw [hv]
  have hproduct : s.fetched.started.product = s.product := by rw [hv]
  have hlapsed : s.fetched.started.sources[k]? = some (lapseSource x) := by
    rw [hv]
    simp [hx]
  have h := exec_source hu hlapsed
  unfold TurnsIOn at h
  rw [hflg, hproduct] at h
  exact h

theorem completed_source (hdone : (completed i s.fetched u).resume = none) {k : Nat} {x : Source}
    (hx : s.sources[k]? = some x) :
    ∃ y : Source, (completed i s.fetched u).sources[k]? = some y ∧
      (x.icr ∈ storedTo i s.fetched.started →
        ∃ ir, y.old = { level := x.ilvl, ir := ir, left := s.product.storeWindow } :: laterWindows x.old) ∧
      (x.icr ∉ storedTo i s.fetched.started →
        y.old = if TurnsIOn i s (completed i s.fetched u) then [] else laterWindows x.old) := by
  obtain ⟨y, hy, hin, hout⟩ := fetched_source hres hu hx
  rw [completed_of_resume_none hdone]
  refine ⟨tickSource y, by simp [hy], fun hm => ?_, fun hm => ?_⟩
  · obtain ⟨ir, hir⟩ := hin hm
    have hpos := storeWindow_pos s.product
    refine ⟨ir, ?_⟩
    rw [tickSource_old, hir, laterWindows_cons (by simpa using hpos), laterWindows_openWindows]
    rfl
  · rw [tickSource_old, hout hm]
    by_cases ht : TurnsIOn i s u
    · rw [if_pos ht]
      exact (if_pos ht).symm
    · rw [if_neg ht, laterWindows_openWindows]
      exact (if_neg ht).symm

theorem completed_iplOld (hdone : (completed i s.fetched u).resume = none) :
    (completed i s.fetched u).iplOld =
      (if opensIpl i = 0 then [] else [(s.flg.ipl, opensIpl i)]) ++ laterIpl s.iplOld := by
  obtain ⟨n, hv⟩ := fetched_started_eq hres
  have hflg : s.fetched.started.flg = s.flg := by rw [hv]
  have hipl : s.fetched.started.iplOld = s.iplOld := by rw [hv]
  have hexec := exec_iplOld hu
  rw [hflg, hipl] at hexec
  rw [completed_of_resume_none hdone, State.tick_iplOld, tickIpl_eq, hexec]
  by_cases h : opensIpl i = 0
  · simp [h]
  · rw [if_neg h, if_neg h]
    exact laterIpl_cons (Nat.succ_lt_succ (Nat.pos_of_ne_zero h)) _

theorem completed_judgeI (hwait : (completed i s.fetched u).waiting = false)
    (hdone : (completed i s.fetched u).resume = none) :
    (completed i s.fetched u).judgeI = if delaysI i then s.flg.i else (completed i s.fetched u).flg.i := by
  obtain ⟨n, hv⟩ := fetched_started_eq hres
  have hflg : s.fetched.started.flg = s.flg := by rw [hv]
  have hprev : s.fetched.started.prevI = none := by rw [hv]
  have hexec := exec_prevI hu
  rw [hflg, hprev] at hexec
  have hmark : (completed i s.fetched u).prevI = u.prevI := by rw [completed_of_resume_none hdone]; rfl
  rw [State.judgeI, hwait, hdone, hmark, hexec]
  cases delaysI i <;> rfl

theorem completed_stepReq (hdone : (completed i s.fetched u).resume = none) :
    (completed i s.fetched u).stepReq = (s.stepReq || s.flg.d) := by
  obtain ⟨n, hv⟩ := fetched_started_eq hres
  obtain ⟨hexec, -, -⟩ := exec_requests hu
  have hstep : s.fetched.started.stepReq = s.stepReq := by rw [hv]
  rw [completed_of_resume_none hdone, ← fetched_flg s, ← hstep, ← hexec]

/-- Between the iterations of an instruction the windows on IPL are as before, and a source that was not stored to has
those that were not over (R480, R613, R615). -/
theorem progress_windows (hmore : (completed i s.fetched u).resume ≠ none) :
    (completed i s.fetched u).iplOld = s.iplOld ∧
      ∀ (k : Nat) (x : Source), s.sources[k]? = some x → ∃ y : Source,
        (completed i s.fetched u).sources[k]? = some y ∧
          (x.icr ∉ storedTo i s.fetched.started → y.old = openWindows x.old) := by
  obtain ⟨n, hv⟩ := fetched_started_eq hres
  have hipl : s.fetched.started.iplOld = s.iplOld := by rw [hv]
  have hnone : u.resume = none := by
    obtain ⟨-, -, hresume⟩ := exec_requests hu
    rw [hresume, hv]
  obtain ⟨hint, hc⟩ := completed_of_resume_ne_none hnone hmore
  rw [hc]
  refine ⟨?_, fun k x hx => ?_⟩
  · have hexec := exec_iplOld hu
    rw [if_pos (opensIpl_of_interruptible hint), List.nil_append, hipl] at hexec
    exact hexec
  · obtain ⟨y, hy, -, hout⟩ := fetched_source hres hu hx
    refine ⟨y, hy, fun hm => ?_⟩
    rw [hout hm, if_neg]
    rintro ⟨rfl, -⟩
    cases hint

end

/-- Settles O18: what the boundary after an instruction sees. -/
theorem boundaryAfter : Obligations.BoundaryAfter := by
  intro s i rest t hready hdec hstep
  obtain ⟨u, hu, ⟨⟩⟩ := andThen_eq_next.mp ((step_of_ready hready hdec).symm.trans hstep)
  obtain ⟨-, -, hres, -⟩ := hready
  obtain ⟨n, hv⟩ := fetched_started_eq hres
  obtain ⟨-, hmatch, -⟩ := exec_requests hu
  refine ⟨?_, completed_judgeI hres hu, fun hdone => ?_, ?_, fun hdone => ⟨completed_iplOld hres hu hdone, ?_⟩,
    progress_windows hres hu⟩
  · have hshadow : s.fetched.started.intShadow = false := by rw [hv]
    rw [completed_intShadow, exec_intShadow hu, hshadow, Bool.or_false]
  · exact completed_stepReq hres hu hdone
  · rw [completed_matchReq, hmatch, hv]
  · exact fun k x hx => completed_source hres hu hdone hx

end Sys2Proof.Machine
end

section
/-! PROOFS. The frame of memory (R75, R81) and the invariant of the machine (R128, R480, R613, R615). -/

namespace Sys2Proof.Machine

/-- Settles O13: an instruction's effect stores to the listed bytes only, and its end does not touch memory. -/
theorem memoryFrame : Obligations.MemoryFrame := by
  intro i s t ht a ha
  obtain ⟨u, hu, rfl⟩ := exec_ran ht
  obtain ⟨l, pc, q, he⟩ := ended_eq i s u
  rw [he]
  exact hu.keeps.mem a ha

/-! Queue bytes near `pc` (R128). -/

/-- Every stale byte in the queue lies within twelve bytes of `pc`. -/
def queueNear (s : State) : Prop := ∀ c ∈ s.queue, (BitVec.ofNat 20 c.1 - s.pc).toNat < 12

/-- Moving on to the next instruction keeps the four bytes from there on. -/
theorem advance_queueNear (s : State) (n : Nat) : queueNear (s.advance n) := by
  intro c hc
  have hnear : (BitVec.ofNat 20 c.1 - s.next n).toNat < 4 := of_decide_eq_true (List.mem_filter.mp hc).2
  exact Nat.lt_trans hnear (by decide)

theorem jump_queueNear (s : State) (a : Addr) : queueNear (s.jump a) := fun _ hc => nomatch hc

/-- An instruction of two bytes that stays keeps the four bytes after it. -/
theorem stay_queueNear (s : State) : queueNear (s.stay 2) := by
  intro c hc
  have hnear : (BitVec.ofNat 20 c.1 - s.next 2).toNat < 4 := of_decide_eq_true (List.mem_filter.mp hc).2
  show (BitVec.ofNat 20 c.1 - s.pc).toNat < 12
  unfold State.next at hnear
  bv_omega

/-- The interrupt sequence ends with a jump. -/
theorem intSeq_queueNear {vec ret : Addr} {clearU : Bool} {level : Option (BitVec 3)} {s t : State}
    (ht : intSeq vec ret clearU level s = .next t) : queueNear t := by
  obtain ⟨_, -, hrest⟩ := andThen_eq_next.mp ht
  obtain ⟨_, -, ⟨⟩⟩ := andThen_eq_next.mp hrest
  exact jump_queueNear _ _

theorem callTo_queueNear {a : Addr} {n : Nat} {s t : State} (ht : callTo a n s = .next t) : queueNear t := by
  obtain ⟨u, -, ⟨⟩⟩ := andThen_eq_next.mp ht
  exact jump_queueNear u a

theorem addJump_queueNear {z : Size} {v : BitVec (Size.bits z)} {l : Loc} {d : BitVec 8} {n : Nat} {s t : State}
    (ht : addJump z v l d n s = .next t) : queueNear t := by
  unfold addJump at ht
  obtain ⟨u, -, ⟨⟩⟩ := andThen_eq_next.mp ht
  split
  · exact advance_queueNear u n
  · exact jump_queueNear u _

/-! Iterations (R480). -/

theorem writeMem_touches {k : StoreKind} {z : Size} {a : Addr} {v : BitVec (Size.bits z)} {s t : State}
    (ht : writeMem k z a v s = .next t) : Touches (sizeAt z a) s t := by
  cases z
  · obtain ⟨-, rfl⟩ := writeByte_eq_next.mp ht
    exact (stored_touches k a v s).trans (record_touches ..)
  · replace ht : writeWord k a v s = .next t := ht
    rcases writeWord_stores k a v s with ⟨-, u, hu, hk, -⟩ | ⟨_, -, -, he⟩ | ⟨_, -, -, -, he⟩
    · rw [hu] at ht
      cases ht
      exact hk
    · rw [he] at ht
      cases ht
    · rw [he] at ht
      cases ht

theorem Touches.waiting {l : List Addr} {s t : State} (h : Touches l s t) : t.waiting = s.waiting := by rw [h.rest]

/-- The state is the end of an iteration that did not start a wait. -/
def EndsIteration (s t : State) : Prop := ∃ last u, u.waiting = s.waiting ∧ t = endIteration last 2 u

theorem EndsIteration.queueNear {s t : State} (h : EndsIteration s t) : queueNear t := by
  obtain ⟨last, u, -, rfl⟩ := h
  cases last
  · exact stay_queueNear u
  · exact advance_queueNear u 2

theorem EndsIteration.waiting {s t : State} (h : EndsIteration s t) : t.waiting = s.waiting := by
  obtain ⟨last, u, hu, rfl⟩ := h
  cases last <;> exact hu

theorem EndsIteration.intro {s t : State} (last : Bool) (h : t.waiting = s.waiting) :
    EndsIteration s (endIteration last 2 t) := ⟨last, t, h, rfl⟩

theorem smovbStep_endsIteration {z : Size} {s t : State} (ht : smovbStep z 2 s = .next t) : EndsIteration s t := by
  unfold smovbStep at ht
  split at ht
  · cases ht
    exact .intro true rfl
  · obtain ⟨u, hu, ⟨⟩⟩ := andThen_eq_next.mp ht
    exact .intro _ ((writeMem_touches hu).waiting.trans (readMem_touches z _ s).waiting)

theorem smovfStep_endsIteration {z : Size} {s t : State} (ht : smovfStep z 2 s = .next t) : EndsIteration s t := by
  unfold smovfStep at ht
  split at ht
  · cases ht
    exact .intro true rfl
  · obtain ⟨u, hu, ⟨⟩⟩ := andThen_eq_next.mp ht
    exact .intro _ ((writeMem_touches hu).waiting.trans (readMem_touches z _ s).waiting)

theorem sstrStep_endsIteration {z : Size} {s t : State} (ht : sstrStep z 2 s = .next t) : EndsIteration s t := by
  unfold sstrStep at ht
  split at ht
  · cases ht
    exact .intro true rfl
  · obtain ⟨u, hu, ⟨⟩⟩ := andThen_eq_next.mp ht
    exact .intro _ (writeMem_touches hu).waiting

theorem setRmpaAcc_waiting (z : Size) (v : Int) (s : State) : (setRmpaAcc z v s).waiting = s.waiting := by
  cases z <;> rfl

theorem rmpaStep_endsIteration (z : Size) (s : State) : EndsIteration s (rmpaStep z 2 s) := by
  have hread := (readMem_touches z (near s.bank.a1) (readMem z (near s.bank.a0) s).2).waiting.trans
    (readMem_touches z (near s.bank.a0) s).waiting
  have hacc (v : Int) := (setRmpaAcc_waiting z v _).trans hread
  unfold rmpaStep
  split
  · exact .intro true rfl
  · dsimp only
    split
    · exact .intro true (hacc _)
    · split
      · exact .intro true (hacc _)
      · exact .intro false (hacc _)

/-! The end of every instruction. -/

/-- A jump that may be taken or not. -/
theorem jumpIf_queueNear (c : Bool) (a : Addr) (n : Nat) (s : State) :
    queueNear (if c then s.jump a else s.advance n) := by
  cases c
  · exact advance_queueNear s n
  · exact jump_queueNear s a

/-- Where the body of a guarded instruction leaves the queue near `pc`, the instruction does. -/
theorem guarded_queueNear {i : Instr} {body : State → Result} {s t : State} (ht : guarded i body s = .next t)
    (h : ∀ u, body s = .next u → queueNear u) : queueNear t := by
  obtain ⟨-, hbody⟩ := guarded_eq_next.mp ht
  exact h t hbody

/-- The same where the body always goes on. -/
theorem guarded_next_queueNear {i : Instr} {f : State → State} {s t : State}
    (ht : guarded i (fun s => .next (f s)) s = .next t) (h : queueNear (f s)) : queueNear t :=
  guarded_queueNear ht fun u hu => by
    cases hu
    exact h

/-- The instructions that write `pc` themselves end with a jump, at the next instruction, or stay. -/
theorem exec_queueNear_of_writesPc {i : Instr} {s t : State} (hpc : writesPc i = true) (ht : exec i s = .next t) :
    queueNear t := by
  cases i
  case jmpS d => exact guarded_next_queueNear (show execJmpS d s = _ from ht) (jump_queueNear _ _)
  case jmpB d => exact guarded_next_queueNear (show execJmpB d s = _ from ht) (jump_queueNear _ _)
  case jmpW d => exact guarded_next_queueNear (show execJmpW d s = _ from ht) (jump_queueNear _ _)
  case jmpA a => exact guarded_next_queueNear (show execJmpA a s = _ from ht) (jump_queueNear _ _)
  case jmpiA src => exact guarded_next_queueNear (show execJmpiA src s = _ from ht) (jump_queueNear _ _)
  case jmpiW src => exact guarded_next_queueNear (show execJmpiW src s = _ from ht) (jump_queueNear _ _)
  case jmps n => exact guarded_next_queueNear (show execJmps n s = _ from ht) (jump_queueNear _ _)
  case rts => exact guarded_next_queueNear (show execRts s = _ from ht) (jump_queueNear _ _)
  case exitd => exact guarded_next_queueNear (show execExitd s = _ from ht) (jump_queueNear _ _)
  case jcnd8 c d => exact guarded_next_queueNear (show execJcnd8 c d s = _ from ht) (jumpIf_queueNear _ _ 2 s)
  case jcnd16 c d => exact guarded_next_queueNear (show execJcnd16 c d s = _ from ht) (jumpIf_queueNear _ _ 3 s)
  case jsrW d => exact guarded_queueNear (show execJsrW d s = _ from ht) fun _ => callTo_queueNear
  case jsrA a => exact guarded_queueNear (show execJsrA a s = _ from ht) fun _ => callTo_queueNear
  case jsriA src => exact guarded_queueNear (show execJsriA src s = _ from ht) fun _ => callTo_queueNear
  case jsriW src => exact guarded_queueNear (show execJsriW src s = _ from ht) fun _ => callTo_queueNear
  case jsrs n =>
    refine guarded_queueNear (show execJsrs n s = _ from ht) fun u hu => ?_
    obtain ⟨_, -, ⟨⟩⟩ := andThen_eq_next.mp hu
    exact jump_queueNear _ _
  case adjnz sz v dst d => exact guarded_queueNear (show execAdjnz sz v dst d s = _ from ht) fun _ => addJump_queueNear
  case sbjnz sz v dst d => exact guarded_queueNear (show execSbjnz sz v dst d s = _ from ht) fun _ => addJump_queueNear
  case brk => exact guarded_queueNear (show execBrk s = _ from ht) fun _ => intSeq_queueNear
  case int n => exact guarded_queueNear (show execInt n s = _ from ht) fun _ => intSeq_queueNear
  case und => exact guarded_queueNear (show execUnd s = _ from ht) fun _ => intSeq_queueNear
  case into =>
    refine guarded_queueNear (show execInto s = _ from ht) fun u hu => ?_
    split at hu
    · exact intSeq_queueNear hu
    · cases hu
      exact advance_queueNear s 1
  case reit =>
    refine guarded_queueNear (show execReit s = _ from ht) fun u hu => ?_
    cases hu
    exact jump_queueNear (pop16 (pop16 (s.openIpl Config.iplWindowReit)).2).2 _
  case smovf z => exact guarded_queueNear (show execSmovf z s = _ from ht) fun _ hu =>
    (smovfStep_endsIteration hu).queueNear
  case smovb z => exact guarded_queueNear (show execSmovb z s = _ from ht) fun _ hu =>
    (smovbStep_endsIteration hu).queueNear
  case sstr z => exact guarded_queueNear (show execSstr z s = _ from ht) fun _ hu =>
    (sstrStep_endsIteration hu).queueNear
  case rmpa z => exact guarded_next_queueNear (show execRmpa z s = _ from ht) (rmpaStep_endsIteration z s).queueNear
  all_goals cases hpc

/-- After an instruction the queue holds bytes near `pc` only, whatever it held before. -/
theorem exec_queueNear {i : Instr} {s t : State} (ht : exec i s = .next t) : queueNear t := by
  cases hpc : writesPc i with
  | true => exact exec_queueNear_of_writesPc hpc ht
  | false =>
    obtain ⟨u, -, rfl⟩ := exec_ran ht
    rw [ended, hpc]
    exact advance_queueNear _ _

/-! Windows on the sources (R613, R615). -/

/-- No window on a source is longer than a store makes it. -/
def windowsBounded (s : State) : Prop := ∀ x ∈ s.sources, ∀ w ∈ x.old, w.left ≤ s.product.storeWindow + 1

/-- An effect that stores to no byte twice opens at most one window on a source, of the length of the product. -/
theorem Effect.windowsBounded {l : List Addr} {c : List Part} {s t : State} (h : Effect l c s t) (hl : l.Nodup)
    (hs : windowsBounded s) : windowsBounded t := by
  intro y hy w hw
  rw [h.keeps.product]
  obtain ⟨k, hk⟩ := List.mem_iff_getElem?.mp hy
  have hlength : t.sources.length = s.sources.length := by simpa using congrArg List.length h.keeps.shape
  have hlt : k < s.sources.length := hlength ▸ (List.getElem?_eq_some_iff.mp hk).1
  have hx : s.sources[k]? = some s.sources[k] := List.getElem?_eq_getElem hlt
  have hold : ∀ v ∈ s.sources[k].old, v.left ≤ s.product.storeWindow + 1 := hs _ (List.mem_of_getElem? hx)
  obtain ⟨z, hz, ho⟩ := h.windows k _ hx
  obtain rfl : y = z := Option.some.inj (hk.symm.trans hz)
  by_cases hmem : s.sources[k].icr ∈ l
  · obtain ⟨ir, hopened⟩ := ho.opened (List.count_eq_one_of_mem hl hmem)
    rw [hopened] at hw
    rcases List.mem_cons.mp hw with rfl | hw
    · exact Nat.le_refl _
    · exact hold w hw
  · rw [(ho.kept (List.count_eq_zero_of_not_mem hmem)).2] at hw
    exact hold w hw

/-- Where `POPC` turns I on there are no windows left, and otherwise the sources are as before. -/
theorem afterPopc_windowsBounded (s : State) {u : State} (h : windowsBounded u) : windowsBounded (afterPopc s u) := by
  unfold afterPopc
  split
  · intro y hy w hw
    obtain ⟨x, -, rfl⟩ := List.mem_map.mp hy
    cases hw
  · exact h

theorem ended_windowsBounded (i : Instr) (s : State) {u : State} (h : windowsBounded u) :
    windowsBounded (ended i s u) := by
  unfold ended
  split
  · exact h
  · cases i with
    | popc c => exact afterPopc_windowsBounded s h
    | _ => exact h

theorem exec_windowsBounded {i : Instr} {s t : State} (ht : exec i s = .next t) (h : windowsBounded s) :
    windowsBounded t := by
  obtain ⟨u, hu, rfl⟩ := exec_ran ht
  exact ended_windowsBounded i s (hu.windowsBounded (storedTo_nodup i s) h)

/-- One boundary later no window is longer. -/
theorem tick_windowsBounded {s : State} (h : windowsBounded s) : windowsBounded s.tick := by
  intro y hy w hw
  obtain ⟨x, hx, rfl⟩ := List.mem_map.mp hy
  rw [tickSource_old] at hw
  obtain ⟨v, hv, rfl⟩ := List.mem_map.mp hw
  have hle := h x hx v (List.mem_filter.mp hv).1
  exact Nat.le_trans (Nat.sub_le _ _) hle

theorem started_windowsBounded {s : State} (h : windowsBounded s) : windowsBounded s.started := by
  intro y hy w hw
  rw [State.started_sources] at hy
  split at hy
  · obtain ⟨x, hx, rfl⟩ := List.mem_map.mp hy
    exact h x hx w (List.mem_filter.mp hw).1
  · exact h y hy w hw

/-! Windows on IPL (R613). -/

/-- No window on IPL has more boundaries left than the number. -/
def iplBounded (n : Nat) (s : State) : Prop := ∀ w ∈ s.iplOld, w.2 ≤ n

theorem opensIpl_le (i : Instr) : opensIpl i ≤ 3 := by
  unfold opensIpl
  split <;> (try split) <;> decide

/-- Before the boundary is counted, a new window has one more boundary left. -/
theorem exec_iplBounded {i : Instr} {s t : State} (ht : exec i s = .next t) (h : iplBounded 3 s) : iplBounded 4 t := by
  intro w hw
  rw [exec_iplOld ht] at hw
  rcases List.mem_append.mp hw with hw | hw
  · split at hw
    · cases hw
    · obtain rfl := List.mem_singleton.mp hw
      exact Nat.succ_le_succ (opensIpl_le i)
  · exact Nat.le_succ_of_le (h w hw)

theorem tick_iplBounded {n : Nat} {s : State} (h : iplBounded (n + 1) s) : iplBounded n s.tick := by
  intro w hw
  rw [State.tick_iplOld, tickIpl_eq] at hw
  obtain ⟨v, hv, rfl⟩ := List.mem_map.mp hw
  exact Nat.sub_le_of_le_add (h v (List.mem_filter.mp hv).1)

/-- An iteration does not start a wait. -/
theorem exec_waiting_of_interruptible {i : Instr} {s t : State} (hi : interruptible i = true)
    (ht : exec i s = .next t) : t.waiting = s.waiting := by
  cases i
  case smovf z =>
    obtain ⟨-, hstep⟩ := guarded_eq_next.mp (show execSmovf z s = .next t from ht)
    exact (smovfStep_endsIteration hstep).waiting
  case smovb z =>
    obtain ⟨-, hstep⟩ := guarded_eq_next.mp (show execSmovb z s = .next t from ht)
    exact (smovbStep_endsIteration hstep).waiting
  case sstr z =>
    obtain ⟨-, hstep⟩ := guarded_eq_next.mp (show execSstr z s = .next t from ht)
    exact (sstrStep_endsIteration hstep).waiting
  case rmpa z =>
    obtain ⟨-, ⟨⟩⟩ := guarded_eq_next.mp (show execRmpa z s = .next t from ht)
    exact (rmpaStep_endsIteration z s).waiting
  all_goals cases hi

/-! The invariant over one step. -/

/-- Memory in its canonical form through an instruction. -/
theorem exec_memWf {i : Instr} {s t : State} (ht : exec i s = .next t) (h : memWf s.mem) : memWf t.mem := by
  obtain ⟨u, hu, rfl⟩ := exec_ran ht
  obtain ⟨l, pc, q, he⟩ := ended_eq i s u
  rw [he]
  exact hu.keeps.wf h

/-- An iteration after which its instruction is in progress. -/
theorem inProgress_consistent {i : Instr} {s t : State} (ht : exec i s.started = .next t) (hwait : s.waiting = false)
    (h : Consistent s) (hi : interruptible i = true) : Consistent { t with resume := some i } := by
  have hmem : memWf t.mem := exec_memWf ht h.memory
  have hqueue : queueNear t := exec_queueNear ht
  have hwaits : t.waiting = false := (exec_waiting_of_interruptible hi ht).trans hwait
  have hwindows : windowsBounded t := exec_windowsBounded ht (started_windowsBounded h.levelWindows)
  have hipl : t.iplOld = s.iplOld := by
    rw [exec_iplOld ht, if_pos (opensIpl_of_interruptible hi), List.nil_append, State.started_iplOld]
  have hbounded : iplBounded Config.iplWindow t := fun w hw => h.iplWindows w (hipl ▸ hw)
  refine ⟨hmem, ?_, hqueue, hbounded, hwindows⟩
  rintro j ⟨⟩
  exact ⟨hi, hwaits⟩

/-- The boundary after a completed instruction. -/
theorem ticked_consistent {i : Instr} {s t : State} (ht : exec i s.started = .next t) (h : Consistent s) :
    Consistent t.tick := by
  have hmem : memWf t.mem := exec_memWf ht h.memory
  have hqueue : queueNear t := exec_queueNear ht
  have hwindows : windowsBounded t := exec_windowsBounded ht (started_windowsBounded h.levelWindows)
  have hstart : iplBounded 3 s.started := h.iplWindows
  have hipl : iplBounded 4 t := exec_iplBounded ht hstart
  have hnone : t.resume = none := by
    obtain ⟨-, -, hres⟩ := exec_requests ht
    exact hres
  refine ⟨hmem, fun j hj => ?_, hqueue, tick_iplBounded hipl, tick_windowsBounded hwindows⟩
  rw [State.tick_resume, hnone] at hj
  cases hj

/-- The single-step request does not matter to the invariant. -/
theorem Consistent.withStepReq {s : State} (h : Consistent s) (b : Bool) : Consistent { s with stepReq := b } :=
  ⟨h.memory, h.progress, h.queue, h.iplWindows, h.levelWindows⟩

theorem completed_consistent {i : Instr} {s t : State} (ht : exec i s.started = .next t) (hwait : s.waiting = false)
    (h : Consistent s) : Consistent (completed i s t) := by
  unfold completed
  split
  · next hc => exact inProgress_consistent ht hwait h (Bool.and_eq_true_iff.mp hc).1
  · exact (ticked_consistent ht h).withStepReq _

theorem runDecoded_consistent {i : Instr} {s t : State} (ht : runDecoded i s = .next t) (hwait : s.waiting = false)
    (h : Consistent s) : Consistent t := by
  obtain ⟨u, hu, ⟨⟩⟩ := andThen_eq_next.mp ht
  exact completed_consistent hu hwait h

/-- The draws do not matter to the invariant. -/
theorem Consistent.withDraws {s : State} (h : Consistent s) (n : Nat) : Consistent { s with draws := n } :=
  ⟨h.memory, h.progress, h.queue, h.iplWindows, h.levelWindows⟩

theorem runInstruction_consistent {s t : State} (ht : runInstruction s = .next t) (hwait : s.waiting = false)
    (h : Consistent s) : Consistent t := by
  unfold runInstruction at ht
  split at ht
  · exact runDecoded_consistent ht hwait h
  · split at ht
    · exact runDecoded_consistent ht hwait (h.withDraws _)
    · cases ht

/-- The level that the interrupt sequence sets is IPL alone. -/
theorem setLevel_effect (level : Option (BitVec 3)) (s : State) :
    Effect [] [.ipl] s (s.setFlg (seqLevel level s.flg)) :=
  .ofRegs (setFlg_keeps s _) rfl rfl fun p hp => by
    cases p with
    | ipl => simp at hp
    | flag n => cases level <;> cases n <;> rfl
    | _ => rfl

/-- A sequence that may set a level: the frame on the stack pointer the new U selects, and IPL too. -/
theorem intSeq_effect {vec ret : Addr} {clearU : Bool} {level : Option (BitVec 3)} {s u : State}
    (hu : intSeq vec ret clearU level s = .next u) :
    Effect (pushedBytes 2 (if clearU then s.isp else s.sp))
      ([.pc] ++ (parts [] [.u, .i, .d] ++ (parts [if clearU then .isp else s.spName] [] ++ [.ipl]))) s u := by
  rw [← setFlg_sp_seqFlags, ← setFlg_spName_seqFlags]
  obtain ⟨t1, h1, hu⟩ := andThen_eq_next.mp hu
  obtain ⟨t2, h2, ⟨⟩⟩ := andThen_eq_next.mp hu
  have e1 := push16_leaves _ _ t1 h1
  have e2 := push16_leaves _ _ t2 h2
  rw [push16_sp h1, e1.spName (by simp)] at e2
  have e3 := (e1.transParts e2 (by simp)).widen (r' := [(s.setFlg (seqFlags clearU s.flg)).spName]) (f' := [])
    (by simp) (by simp)
  have e4 := (setLevel_effect level t2).thenNone ((waiting_effect _ false).after (read32_effect vec _)) (by simp)
  have e0 : Effect [] (parts [] [.u, .i, .d]) s (s.setFlg (seqFlags clearU s.flg)) :=
    (setFlg_effect (seqFlags_kept clearU s.flg)).widen (by simp) (by cases clearU <;> simp)
  exact (e0.trans (e3.then e4 (by simp)) (by simp)).jump _

/-- The interrupt sequence leaves a state that meets the invariant, where nothing was in progress. -/
theorem intSeq_consistent {vec ret : Addr} {clearU : Bool} {level : Option (BitVec 3)} {s t : State}
    (ht : intSeq vec ret clearU level s = .next t) (hres : s.resume = none) (h : Consistent s) : Consistent t := by
  have he := intSeq_effect ht
  have hipl : t.iplOld = s.iplOld := he.kept .iplOld (by simp)
  refine ⟨he.keeps.wf h.memory, ?_, intSeq_queueNear ht, ?_,
    he.windowsBounded (pushedBytes_nodup (by decide) _) h.levelWindows⟩
  · intro j hj
    rw [he.keeps.resume, hres] at hj
    cases hj
  · rw [hipl]
    exact h.iplWindows

theorem Consistent.tick {s : State} (h : Consistent s) : Consistent s.tick :=
  ⟨h.memory, h.progress, h.queue, tick_iplBounded fun w hw => Nat.le_succ_of_le (h.iplWindows w hw),
    tick_windowsBounded h.levelWindows⟩

/-- The windows of a source that loses its request stay. -/
theorem clearIrAt_old {k : Nat} {l : List Source} {y : Source} (h : y ∈ clearIrAt k l) : ∃ x ∈ l, y.old = x.old := by
  obtain ⟨j, hj⟩ := List.mem_iff_getElem?.mp h
  have hlength : (clearIrAt k l).length = l.length := by simpa using congrArg List.length (clearIrAt_shape k l)
  have hlt : j < l.length := hlength ▸ (List.getElem?_eq_some_iff.mp hj).1
  obtain ⟨ir, hz⟩ := clearIrAt_source (k := k) (List.getElem?_eq_getElem hlt)
  rw [hj] at hz
  exact ⟨l[j], List.getElem_mem hlt, by rw [Option.some.inj hz]⟩

/-- What the acceptance of an interrupt consumes does not matter to the invariant. -/
theorem acceptHw_consistent {src : HwSource} {s t : State} (ht : acceptHw src s = .next t) (h : Consistent s) :
    Consistent t := by
  have hnone : ∀ i, (none : Option Instr) = some i → interruptible i = true ∧ false = false := by
    intro i hi
    cases hi
  obtain ⟨u, hu, ⟨⟩⟩ := andThen_eq_next.mp ht
  refine Consistent.tick ?_
  cases src with
  | peripheral k =>
    dsimp only at hu
    split at hu
    · refine intSeq_consistent hu rfl ⟨h.memory, hnone, h.queue, h.iplWindows, fun y hy w hw => ?_⟩
      obtain ⟨x, hx, hold⟩ := clearIrAt_old hy
      rw [hold] at hw
      exact h.levelWindows x hx w hw
    · cases hu
      exact ⟨h.memory, hnone, h.queue, h.iplWindows, h.levelWindows⟩
  | _ => exact intSeq_consistent hu rfl ⟨h.memory, hnone, h.queue, h.iplWindows, h.levelWindows⟩

theorem anySources_old {l : List Source} {n : Nat} {y : Source} (h : y ∈ anySources l n) : y.old = [] := by
  induction l generalizing n with
  | nil => cases h
  | cons x l ih =>
    rcases List.mem_cons.mp h with rfl | h
    · rfl
    · exact ih h

/-- A reset leaves memory in its canonical form and nothing else to bound. -/
theorem hardReset_consistent {s : State} (h : memWf s.mem) : Consistent (hardReset s) where
  memory := memFill_wf _ _ _ h
  progress i hi := by
    rw [show (hardReset s).resume = none from rfl] at hi
    cases hi
  queue c hc := by
    rw [show (hardReset s).queue = [] from rfl] at hc
    cases hc
  iplWindows w hw := by
    rw [show (hardReset s).iplOld = [] from rfl] at hw
    cases hw
  levelWindows y hy w hw := by
    rw [anySources_old hy] at hw
    cases hw

/-- Settles O10: a reset, an accepted interrupt, an instruction or iteration, and a wait each meet the invariant. -/
theorem stepConsistent : Obligations.StepConsistent := by
  intro s t h ht
  unfold step cpuStep at ht
  split at ht
  case isTrue =>
    cases ht
    exact hardReset_consistent h.memory
  case isFalse =>
    split at ht
    case isTrue hshadow =>
      have hwait : s.waiting = false := by simp_all
      refine runInstruction_consistent ht hwait ?_
      exact ⟨h.memory, h.progress, h.queue, h.iplWindows, h.levelWindows⟩
    case isFalse =>
      split at ht
      · refine acceptHw_consistent ht ?_
        exact ⟨h.memory, h.progress, h.queue, h.iplWindows, h.levelWindows⟩
      · split at ht
        · cases ht
          exact h.withDraws _
        · next hwait => exact runInstruction_consistent ht (Bool.eq_false_iff.mpr hwait) (h.withDraws _)

end Sys2Proof.Machine
end

section
/-! PROOFS. Reads and writes of one to four bytes (R73 to R78), their trace (R631), and the fetch (R76, R128). -/

namespace Sys2Proof.Machine

/-! The trace of one access. -/

/-- An access recorded in a state with the trace and the product of an earlier one. -/
theorem record_traced {d : Direction} {a : Addr} {n w : Nat} {v : BitVec w} {s t : State}
    (htrace : t.sfrTrace = s.sfrTrace) (hproduct : t.product = s.product) :
    traced d a n v s (t.record d a n (v.setWidth 32)) := by
  have hsfr (b : Addr) : t.isSfr b = s.isSfr b := by simp [State.isSfr, hproduct]
  have htouch : t.touchesSfr a n = true ↔ ∃ k < n, s.isSfr (a + BitVec.ofNat 20 k) = true := by
    simp [State.touchesSfr, hsfr]
  constructor
  · intro h
    simp only [State.record, if_pos (htouch.mpr h), htrace]
  · intro h
    have hno : ¬ t.touchesSfr a n = true := fun hk => by
      obtain ⟨k, hk, hs⟩ := htouch.mp hk
      rw [h k hk] at hs
      cases hs
    simp only [State.record, if_neg hno, htrace]

/-! Reads. -/

/-- A read of one or more bytes leaves the one entry for its value. -/
theorem recordRead_traced {w : Nat} {a : Addr} {n : Nat} {s : State} {r : BitVec w × State}
    (htrace : r.2.sfrTrace = s.sfrTrace) (hproduct : r.2.product = s.product) :
    traced .read a n (recordRead a n r).1 s (recordRead a n r).2 := record_traced htrace hproduct

theorem readByte_traced (a : Addr) (s : State) : traced .read a 1 (readByte a s).1 s (readByte a s).2 :=
  recordRead_traced rfl rfl

theorem readWord_traced (a : Addr) (s : State) : traced .read a 2 (readWord a s).1 s (readWord a s).2 :=
  recordRead_traced rfl rfl

theorem read24_traced (a : Addr) (s : State) : traced .read a 3 (read24 a s).1 s (read24 a s).2 :=
  recordRead_traced rfl rfl

theorem busReadWord_sfrTrace (a : Addr) (s : State) : (busReadWord a s).2.sfrTrace = s.sfrTrace := rfl

theorem read32_traced (a : Addr) (s : State) : traced .read a 4 (read32 a s).1 s (read32 a s).2 := by
  have htrace := (busReadWord_sfrTrace (a + 2) (busReadWord a s).2).trans (busReadWord_sfrTrace a s)
  have hproduct := (busReadWord_touches (a + 2) (busReadWord a s).2).product.trans (busReadWord_touches a s).product
  simp only [read32, recordRead]
  exact record_traced htrace hproduct

theorem busReadWord_plain {a : Addr} {s : State} (h0 : s.plain a) (h1 : s.plain (a + 1)) :
    busReadWord a s = (wordAt s.mem a, s) := by
  simp only [busReadWord, busRead_plain h0, busRead_plain h1, wordAt]

/-- Plain bytes lie outside the SFR area. -/
theorem touchesSfr_eq_false {a : Addr} {n : Nat} {s : State} (h : ∀ k < n, s.plain (a + BitVec.ofNat 20 k)) :
    s.touchesSfr a n = false := by
  simp only [State.touchesSfr, List.any_eq_false, List.mem_range, Bool.not_eq_true]
  intro k hk
  obtain ⟨-, -, hs, -⟩ := h k hk
  exact hs

theorem read24_plain {a : Addr} {s : State} (h0 : s.plain a) (h1 : s.plain (a + 1)) (h2 : s.plain (a + 2)) :
    read24 a s = (memGet s.mem (a + 2).toNat ++ wordAt s.mem a, s) := by
  have hs : s.touchesSfr a 3 = false := touchesSfr_eq_false fun k hk => by
    obtain rfl | rfl | rfl : k = 0 ∨ k = 1 ∨ k = 2 := by omega
    · simpa using h0
    · exact h1
    · exact h2
  simp only [read24, recordRead, busReadWord_plain h0 h1, busRead_plain h2]
  rw [record_of_outside hs]

theorem read32_plain {a : Addr} {s : State} (h0 : s.plain a) (h1 : s.plain (a + 1)) (h2 : s.plain (a + 2))
    (h3 : s.plain (a + 2 + 1)) : read32 a s = (wordAt s.mem (a + 2) ++ wordAt s.mem a, s) := by
  have hs : s.touchesSfr a 4 = false := touchesSfr_eq_false fun k hk => by
    obtain rfl | rfl | rfl | rfl : k = 0 ∨ k = 1 ∨ k = 2 ∨ k = 3 := by omega
    · simpa using h0
    · exact h1
    · exact h2
    · rwa [BitVec.add_assoc] at h3
  simp only [read32, recordRead, busReadWord_plain h0 h1, busReadWord_plain h2 h3]
  rw [record_of_outside hs]

/-! Writes: the states they leave, one store after another. -/

/-- Two bytes stored, the low one first. -/
def storedWord (k : StoreKind) (a : Addr) (v : Word) (s : State) : State :=
  stored k (a + 1) (hiByte v) (stored k a (loByte v) s)

section
variable {k : StoreKind} {a : Addr} {s : State}

theorem busWrite_of_writable (v : Byte) (h : s.writable a = true) : busWrite k a v s = .next (stored k a v s) := by
  simp only [State.writable, Bool.and_eq_true, Bool.not_eq_true'] at h
  simp [busWrite, h]

theorem busWriteWord_of_writable (v : Word) (h0 : s.writable a = true) (h1 : s.writable (a + 1) = true) :
    busWriteWord k a v s = .next (storedWord k a v s) := by
  rw [busWriteWord, busWrite_of_writable _ h0]
  exact busWrite_of_writable _ h1

theorem writeByte_of_writable (v : Byte) (h : s.writable a = true) :
    writeByte k a v s = .next ((stored k a v s).record .write a 1 (v.setWidth 32)) := by
  rw [writeByte, busWrite_of_writable v h]
  rfl

theorem writeWord_of_writable (v : Word) (h0 : s.writable a = true) (h1 : s.writable (a + 1) = true) :
    writeWord k a v s = .next ((storedWord k a v s).record .write a 2 (v.setWidth 32)) := by
  rw [writeWord, busWriteWord_of_writable v h0 h1]
  rfl

theorem storedWord_writable (v : Word) (b : Addr) : (storedWord k a v s).writable b = s.writable b := rfl

theorem write24_of_writable (v : BitVec 24) (h0 : s.writable a = true) (h1 : s.writable (a + 1) = true)
    (h2 : s.writable (a + 2) = true) :
    write24 k a v s = .next ((stored k (a + 2) (v.extractLsb' 16 8) (storedWord k a (v.extractLsb' 0 16) s)).record
      .write a 3 (v.setWidth 32)) := by
  rw [write24, busWriteWord_of_writable _ h0 h1, andThen_of_next,
    busWrite_of_writable _ ((storedWord_writable _ _).trans h2)]
  rfl

theorem write32_of_writable (v : BitVec 32) (h0 : s.writable a = true) (h1 : s.writable (a + 1) = true)
    (h2 : s.writable (a + 2) = true) (h3 : s.writable (a + 2 + 1) = true) :
    write32 k a v s = .next ((storedWord k (a + 2) (v.extractLsb' 16 16)
      (storedWord k a (v.extractLsb' 0 16) s)).record .write a 4 (v.setWidth 32)) := by
  rw [write32, busWriteWord_of_writable _ h0 h1, andThen_of_next,
    busWriteWord_of_writable _ ((storedWord_writable _ _).trans h2) ((storedWord_writable _ _).trans h3)]
  rfl

end

/-! What the stores leave in memory. -/

theorem stored_read_other {k : StoreKind} {a b : Addr} {v : Byte} {s : State} (h : b ≠ a) :
    memGet (stored k a v s).mem b.toNat = memGet s.mem b.toNat :=
  memGet_memSet_other _ _ _ _ fun hn => h (BitVec.eq_of_toNat_eq hn)

section
variable (k : StoreKind) (a : Addr) (v : Word) (s : State)

theorem storedWord_high : memGet (storedWord k a v s).mem (a + 1).toNat = v.extractLsb' 8 8 :=
  stored_read_same k (a + 1) _ _

theorem storedWord_low : memGet (storedWord k a v s).mem a.toNat = v.extractLsb' 0 8 := by
  have hne : a ≠ a + 1 := addr_add_ne a (n := 1) (by decide) (by decide)
  rw [storedWord, stored_read_other hne, stored_read_same, loByte]

theorem storedWord_wordAt : wordAt (storedWord k a v s).mem a = v := by
  rw [wordAt, storedWord_low, storedWord_high]
  exact hiByte_loByte v

variable {k a v s}

theorem storedWord_other {b : Addr} (h0 : b ≠ a) (h1 : b ≠ a + 1) :
    memGet (storedWord k a v s).mem b.toNat = memGet s.mem b.toNat := by
  rw [storedWord, stored_read_other h1, stored_read_other h0]

/-- A word stored two bytes further on leaves the word. -/
theorem wordAt_storedWord_above : wordAt (storedWord k (a + 2) v s).mem a = wordAt s.mem a := by
  have h0 : a ≠ a + 2 ∧ a ≠ a + 2 + 1 := by constructor <;> bv_omega
  have h1 : a + 1 ≠ a + 2 ∧ a + 1 ≠ a + 2 + 1 := by constructor <;> bv_omega
  rw [wordAt, wordAt, storedWord_other h0.1 h0.2, storedWord_other h1.1 h1.2]

end

/-! A read after a write (R77). -/

theorem icrAt_eq_none {l : List Source} {a : Addr} : icrAt l a = none ↔ a ∉ l.map Source.icr := by
  simp [icrAt, List.find?_eq_none]

/-- Stores and reads leave a plain byte plain. -/
theorem Touches.plain {l : List Addr} {s t : State} (h : Touches l s t) {b : Addr} (hb : s.plain b) : t.plain b := by
  obtain ⟨h0, hhole, hsfr, hicr⟩ := hb
  have hshape : t.sources.map Source.icr = s.sources.map Source.icr := by
    simpa [Function.comp_def] using congrArg (List.map Prod.snd) h.shape
  refine ⟨h0, ?_, ?_, ?_⟩
  · rw [← hhole, State.isHole, State.isHole, h.product]
  · rw [← hsfr, State.isSfr, State.isSfr, h.product]
  · rw [icrAt_eq_none, hshape]
    exact icrAt_eq_none.mp hicr

theorem storedWord_touches (k : StoreKind) (a : Addr) (v : Word) (s : State) :
    Touches [a, a + 1] s (storedWord k a v s) :=
  (stored_touches k a (loByte v) s).trans (stored_touches k (a + 1) (hiByte v) _)

/-! The statement, write by write. -/

section
variable {k : StoreKind} {a : Addr} {s : State}

theorem writeByte_result (v : Byte) (h : s.writable a = true) : ∃ t, writeByte k a v s = .next t ∧
    memGet t.mem a.toNat = v ∧ traced .write a 1 v s t ∧
    ∀ b : Addr, b ≠ a → memGet t.mem b.toNat = memGet s.mem b.toNat :=
  ⟨_, writeByte_of_writable v h, stored_read_same k a v s, record_traced rfl rfl,
    fun _ hb => stored_read_other (k := k) hb⟩

/-- The byte at the second address is the high one, and reads as such (R77). -/
theorem writeWord_result (v : Word) (h0 : s.writable a = true) (h1 : s.writable (a + 1) = true) :
    ∃ t, writeWord k a v s = .next t ∧
      memGet t.mem a.toNat = v.extractLsb' 0 8 ∧ memGet t.mem (a + 1).toNat = v.extractLsb' 8 8 ∧
      (s.plain (a + 1) → (readByte (a + 1) t).1 = v.extractLsb' 8 8) ∧ traced .write a 2 v s t ∧
      ∀ b : Addr, b ≠ a → b ≠ a + 1 → memGet t.mem b.toNat = memGet s.mem b.toNat := by
  have htouches := (storedWord_touches k a v s).trans (record_touches .write a 2 (v.setWidth 32) _)
  refine ⟨_, writeWord_of_writable v h0 h1, storedWord_low k a v s, storedWord_high k a v s, fun hplain => ?_,
    record_traced rfl rfl, fun _ => storedWord_other⟩
  rw [readByte_plain (htouches.plain hplain)]
  exact storedWord_high k a v s

theorem write24_result (v : BitVec 24) (h0 : s.writable a = true) (h1 : s.writable (a + 1) = true)
    (h2 : s.writable (a + 2) = true) : ∃ t, write24 k a v s = .next t ∧
      memGet t.mem a.toNat = v.extractLsb' 0 8 ∧ memGet t.mem (a + 1).toNat = v.extractLsb' 8 8 ∧
      memGet t.mem (a + 2).toNat = v.extractLsb' 16 8 ∧ traced .write a 3 v s t := by
  have hlow : a ≠ a + 2 := by bv_omega
  have hhigh : a + 1 ≠ a + 2 := by bv_omega
  refine ⟨_, write24_of_writable v h0 h1 h2, ?_, ?_, stored_read_same k (a + 2) _ _, record_traced rfl rfl⟩
  · rw [State.record_mem, stored_read_other hlow, storedWord_low, BitVec.extractLsb'_extractLsb'_of_le (by decide)]
  · rw [State.record_mem, stored_read_other hhigh, storedWord_high, BitVec.extractLsb'_extractLsb'_of_le (by decide)]

theorem write32_result (v : BitVec 32) (h0 : s.writable a = true) (h1 : s.writable (a + 1) = true)
    (h2 : s.writable (a + 2) = true) (h3 : s.writable (a + 2 + 1) = true) : ∃ t, write32 k a v s = .next t ∧
      wordAt t.mem a = v.extractLsb' 0 16 ∧ wordAt t.mem (a + 2) = v.extractLsb' 16 16 ∧ traced .write a 4 v s t := by
  refine ⟨_, write32_of_writable v h0 h1 h2 h3, ?_, storedWord_wordAt k (a + 2) _ _, record_traced rfl rfl⟩
  rw [State.record_mem, wordAt_storedWord_above, storedWord_wordAt]

end

/-- Settles O19: reads of plain bytes, the trace of every read, and the four writes. -/
theorem memoryReadWrite : Obligations.MemoryReadWrite :=
  ⟨fun _ _ => readByte_plain, fun _ _ => readWord_plain, fun _ _ => read24_plain, fun _ _ => read32_plain,
    fun a s => ⟨readByte_traced a s, readWord_traced a s, read24_traced a s, read32_traced a s⟩,
    fun _ _ v _ => writeByte_result v, fun _ _ v _ => writeWord_result v, fun _ _ v _ => write24_result v,
    fun _ _ v _ => write32_result v⟩

/-! The fetch (R76, R128). -/

/-- What the queue shows for an address is the byte given or one that it holds for the address. -/
theorem fromQueue_mem (a : Addr) (q : List Host.Cell) (v : Byte) (n : Nat) :
    (fromQueue a q v n).1 = v ∨ (a.toNat, (fromQueue a q v n).1) ∈ q := by
  induction q generalizing v n with
  | nil => exact .inl rfl
  | cons c q ih =>
    obtain ⟨k, old⟩ := c
    rw [fromQueue]
    split
    · next hk =>
      subst hk
      rcases ih (if Config.freeBit n then old else v) (n + 1) with h | h
      · rw [h]
        split
        · exact .inr List.mem_cons_self
        · exact .inl rfl
      · exact .inr (List.mem_cons_of_mem _ h)
    · exact (ih v n).imp_right (List.mem_cons_of_mem _)

/-- Outside the hole a byte of the instruction stream is the one shown or a stale one (D18). -/
theorem fetchByte_mem {a : Addr} {s : State} (n : Nat) (h : s.isHole a = false) :
    (fetchByte a s n).1 = s.peek a ∨ (a.toNat, (fetchByte a s n).1) ∈ s.queue := by
  rw [fetchByte, h]
  exact fromQueue_mem a s.queue (s.peek a) n

/-- The bytes fetched lie at ascending addresses. -/
theorem fetchBytes_getElem? (s : State) (m : Nat) (a : Addr) (n k : Nat) (hk : k < m) :
    ∃ j, (fetchBytes s m a n).1[k]? = some (fetchByte (a + BitVec.ofNat 20 k) s j).1 := by
  induction m generalizing a n k with
  | zero => cases hk
  | succ m ih =>
    cases k with
    | zero => exact ⟨n, by simp [fetchBytes]⟩
    | succ k =>
      obtain ⟨j, hj⟩ := ih (a + 1) (fetchByte a s n).2 k (Nat.lt_of_succ_lt_succ hk)
      have haddr : a + 1 + BitVec.ofNat 20 k = a + BitVec.ofNat 20 (k + 1) := by
        rw [BitVec.add_assoc, BitVec.add_comm 1, BitVec.ofNat_add]
        rfl
      rw [haddr] at hj
      exact ⟨j, hj⟩

/-- Passing a boundary changes nothing that a fetch looks at. -/
theorem passed_fetch (s : State) : s.passed.pc = s.pc ∧ s.passed.queue = s.queue ∧
    (∀ a, s.passed.isHole a = s.isHole a) ∧ ∀ a, s.passed.peek a = s.peek a := by
  unfold State.passed
  split <;> exact ⟨rfl, rfl, fun _ => rfl, fun _ => rfl⟩

/-! The statement's theorem has a namespace of its own: the model has a `fetchBytes` too. -/

namespace FetchProofs

/-- Settles O7: each of the eight bytes is the one shown or a stale one. -/
theorem fetchBytes : Obligations.FetchBytes := by
  intro s k hk hhole
  obtain ⟨hpc, hqueue, hsameHole, hpeek⟩ := passed_fetch s
  obtain ⟨j, hj⟩ := fetchBytes_getElem? s.passed 8 s.passed.pc s.passed.draws k hk
  rw [← hpc] at hhole ⊢
  refine ⟨_, hj, ?_⟩
  rw [← hpeek, ← hqueue]
  exact fetchByte_mem j ((hsameHole _).trans hhole)

end FetchProofs

end Sys2Proof.Machine
end

section
/-! PROOFS. Effective addresses and bit addresses as integers (R92 to R98, R110 to R115, R448). -/

namespace Sys2Proof.Machine

/-! Sums of addresses and displacements. -/

/-- A 16-bit address as one of the 1 Mbyte space keeps its value (R90). -/
theorem near_toNat (v : Word) : (near v).toNat = v.toNat := BitVec.toNat_setWidth_of_le (by decide)

/-- An unsigned displacement adds its value. -/
theorem add_setWidth_toNat {w : Nat} (v : Word) (d : BitVec w) (h : w ≤ 16) :
    (v + d.setWidth 16).toNat = (v.toNat + d.toNat) % 2 ^ 16 := by
  rw [BitVec.toNat_add, BitVec.toNat_setWidth_of_le h]

/-- A signed displacement adds its value, modulo 2^16. -/
theorem add_toInt_toNat (v d : Word) : ((v + d).toNat : Int) = (v.toNat + d.toInt) % 2 ^ 16 := by
  rw [BitVec.toInt_eq_toNat_cond, BitVec.toNat_add]
  split <;> omega

theorem add_signExtend_toNat {w : Nat} (v : Word) (d : BitVec w) (h : w ≤ 16) :
    ((v + d.signExtend 16).toNat : Int) = (v.toNat + d.toInt) % 2 ^ 16 := by
  rw [add_toInt_toNat, BitVec.toInt_signExtend_of_le h]

theorem near_add_toNat (v : Word) (d : Addr) : (near v + d).toNat = (v.toNat + d.toNat) % 2 ^ 20 := by
  rw [BitVec.toNat_add, near_toNat]

/-- The low 20 bits of a pair of registers (R98). -/
theorem farPair_toNat (s : State) : s.farPair.toNat = (s.bank.a1.toNat * 2 ^ 16 + s.bank.a0.toNat) % 2 ^ 20 := by
  rw [State.farPair, BitVec.extractLsb'_toNat, Nat.shiftRight_zero, BitVec.toNat_append,
    ← Nat.shiftLeft_add_eq_or_of_lt s.bank.a0.isLt, Nat.shiftLeft_eq]

/-- Settles O21: the addresses by their sums; the registers that operands name are so by definition. -/
theorem effectiveAddresses : Obligations.EffectiveAddresses := by
  intro s
  refine ⟨fun _ => rfl, fun _ => rfl, fun _ _ => add_setWidth_toNat _ _ (by decide), fun _ _ => BitVec.toNat_add _ _,
    fun _ => add_setWidth_toNat _ _ (by decide), fun _ => BitVec.toNat_add _ _,
    fun _ => add_signExtend_toNat _ _ (by decide), fun _ => add_signExtend_toNat _ _ (by decide),
    fun _ => add_setWidth_toNat _ _ (by decide), fun _ => add_signExtend_toNat _ _ (by decide), fun _ => rfl,
    fun _ => near_add_toNat _ _, farPair_toNat s, fun _ _ => near_add_toNat _ _, ?_⟩
  exact ⟨fun _ => rfl, fun _ _ => rfl, fun _ => rfl, fun _ => rfl, fun _ => rfl, fun _ => rfl, rfl, rfl, rfl,
    fun _ => rfl, fun _ => rfl, fun _ => rfl, fun _ => rfl, rfl, rfl, rfl, rfl, rfl, rfl, rfl, rfl, rfl, rfl,
    fun _ => rfl, fun _ => rfl, rfl, rfl, fun _ _ => rfl, rfl, rfl, fun _ _ => rfl⟩

/-! Bits of memory. -/

/-- The low three bits are the remainder by 8. -/
theorem extractLsb'_three_toNat {w : Nat} (k : BitVec w) : (k.extractLsb' 0 3).toNat = k.toNat % 8 := by
  rw [BitVec.extractLsb'_toNat, Nat.shiftRight_zero]

/-- Bit `k` from a base is bit `k mod 8` of the byte `k / 8` from it (R111 to R114). -/
theorem bitAt_eq {w : Nat} (base : Word) (k : BitVec w) (h : w ≤ 16) :
    bitAt base k = .mem (BitVec.ofNat 20 ((base.toNat + k.toNat / 8) % 2 ^ 16)) (k.toNat % 8) := by
  have hbyte : near (base + (k >>> 3).setWidth 16) = BitVec.ofNat 20 ((base.toNat + k.toNat / 8) % 2 ^ 16) := by
    apply BitVec.eq_of_toNat_eq
    rw [near_toNat, add_setWidth_toNat _ _ h, BitVec.toNat_ushiftRight, Nat.shiftRight_eq_div_pow, BitVec.toNat_ofNat]
    omega
  rw [bitAt, hbyte, extractLsb'_three_toNat]

/-- From base 0 the byte is `k / 8` itself. -/
theorem bitAt_zero (k : Word) : bitAt 0#16 k = .mem (BitVec.ofNat 20 (k.toNat / 8)) (k.toNat % 8) := by
  have hk := k.isLt
  rw [bitAt_eq _ _ (Nat.le_refl _), BitVec.toNat_zero, Nat.zero_add, Nat.mod_eq_of_lt (by omega)]

/-- With FB the bit number is signed, and the division by 8 rounds down (R115). -/
theorem bitLoc_fb8 (s : State) (k : BitVec 8) : s.bitLoc (.fb8 k) =
    .mem (BitVec.ofInt 20 ((s.bank.fb.toNat + k.toInt / 8) % 2 ^ 16)) (k.toInt % 8).toNat := by
  have hshift : ((k.signExtend 16).sshiftRight 3).toInt = k.toInt / 8 := by
    rw [BitVec.toInt_sshiftRight, BitVec.toInt_signExtend_of_le (by decide), Int.shiftRight_eq_div_pow]
    rfl
  have hbyte : near (s.bank.fb + (k.signExtend 16).sshiftRight 3) =
      BitVec.ofInt 20 ((s.bank.fb.toNat + k.toInt / 8) % 2 ^ 16) := by
    have hsum := add_toInt_toNat s.bank.fb ((k.signExtend 16).sshiftRight 3)
    rw [hshift] at hsum
    apply BitVec.eq_of_toNat_eq
    rw [near_toNat, ← hsum, BitVec.ofInt_natCast, BitVec.toNat_ofNat]
    omega
  have hbit : (k.extractLsb' 0 3).toNat = (k.toInt % 8).toNat := by
    rw [extractLsb'_three_toNat, BitVec.toInt_eq_toNat_cond]
    split <;> omega
  rw [State.bitLoc, hbyte, hbit]

/-- The address of a short bit operand (R114). -/
theorem shortBit_eq (s : State) (n : BitVec 3) (d : BitVec 8) :
    s.shortBit n d = .mem (BitVec.ofNat 20 ((s.sb.toNat + d.toNat) % 2 ^ 16)) n.toNat := by
  have hbyte : near (s.sb + d.setWidth 16) = BitVec.ofNat 20 ((s.sb.toNat + d.toNat) % 2 ^ 16) := by
    apply BitVec.eq_of_toNat_eq
    rw [near_toNat, add_setWidth_toNat _ _ (by decide), BitVec.toNat_ofNat]
    omega
  rw [State.shortBit, hbyte]

/-- An 8-bit base as a word keeps its value. -/
theorem bitLoc_rel8 (s : State) (a : AReg) (b : BitVec 8) : s.bitLoc (.rel8 a b) =
    .mem (BitVec.ofNat 20 ((b.toNat + (s.areg a).toNat / 8) % 2 ^ 16)) ((s.areg a).toNat % 8) := by
  rw [State.bitLoc, bitAt_eq _ _ (Nat.le_refl _), BitVec.toNat_setWidth_of_le (by decide)]

/-- Settles O22: the bit addresses by base, byte and bit. -/
theorem bitAddresses : Obligations.BitAddresses := fun s =>
  ⟨fun _ _ => rfl, bitAt_zero, fun _ => bitAt_zero _, bitLoc_rel8 s, fun _ _ => bitAt_eq _ _ (Nat.le_refl _),
    fun _ => bitAt_eq _ _ (by decide), fun _ => bitAt_eq _ _ (Nat.le_refl _), bitLoc_fb8 s, shortBit_eq s⟩

end Sys2Proof.Machine
end

section
/-! PROOFS. What reads and stores do to request bits and levels (R82, R552, R555, R557, R616). -/

namespace Sys2Proof.Machine

/-! The choice among requests (R570). -/

/-- No request among those judged is chosen only where there is none. -/
theorem bestOf_eq_none {n : Nat} {l : List (Bool × BitVec 3)} (h : bestOf n l = none) (j : Nat) (lvl : BitVec 3) :
    l[j]? ≠ some (true, lvl) := by
  induction l generalizing n j with
  | nil => simp
  | cons p l ih =>
    obtain ⟨req, lvl'⟩ := p
    unfold bestOf at h
    split at h
    · next hrest =>
      cases j with
      | zero =>
        rintro ⟨⟩
        cases h
      | succ j => exact ih hrest j
    · split at h <;> cases h

/-- The request chosen is there, and every other has a lower level, or an equal one and stands behind it. -/
theorem bestOf_eq_some {n k : Nat} {l : List (Bool × BitVec 3)} {best : BitVec 3} (h : bestOf n l = some (k, best)) :
    ∃ i, k = n + i ∧ l[i]? = some (true, best) ∧
      ∀ (j : Nat) (lvl : BitVec 3), l[j]? = some (true, lvl) → lvl.toNat < best.toNat ∨ (lvl = best ∧ i ≤ j) := by
  induction l generalizing n k best with
  | nil => cases h
  | cons p l ih =>
    obtain ⟨req, lvl'⟩ := p
    unfold bestOf at h
    split at h
    case h_1 hrest =>
      split at h
      · next hreq =>
        cases h
        refine ⟨0, rfl, by simp [hreq], fun j lvl hj => ?_⟩
        cases j with
        | zero => cases hj; exact .inr ⟨rfl, Nat.le_refl 0⟩
        | succ j => exact absurd hj (bestOf_eq_none hrest j lvl)
      · cases h
    case h_2 m top hrest =>
      obtain ⟨i, hi, htop, hmax⟩ := ih hrest
      split at h
      · next hfirst =>
        cases h
        simp only [Bool.and_eq_true, decide_eq_true_eq] at hfirst
        obtain ⟨rfl, hle⟩ := hfirst
        refine ⟨0, rfl, rfl, fun j lvl hj => ?_⟩
        cases j with
        | zero => cases hj; exact .inr ⟨rfl, Nat.le_refl 0⟩
        | succ j =>
          rcases hmax j lvl hj with hlt | ⟨rfl, -⟩
          · exact .inl (by omega)
          · rcases Nat.lt_or_eq_of_le hle with hlt | heq
            · exact .inl hlt
            · exact .inr ⟨BitVec.eq_of_toNat_eq heq, Nat.zero_le _⟩
      · next hfirst =>
        cases h
        refine ⟨i + 1, by omega, htop, fun j lvl hj => ?_⟩
        cases j with
        | zero =>
          cases hj
          simp only [Bool.true_and, decide_eq_true_eq, Nat.not_le] at hfirst
          exact .inl hfirst
        | succ j => exact (hmax j lvl hj).imp_right fun ⟨heq, hle⟩ => ⟨heq, Nat.succ_le_succ hle⟩

/-! A read of 00000h (R82, R557). -/

/-- The source at the position is the one that a read of 00000h clears. -/
abbrev isBest (l : List Source) (k : Nat) (x : Source) : Prop :=
  x.ir = true ∧ 0 < x.ilvl.toNat ∧ outranks l (fun z => z.ir = true ∧ 0 < z.ilvl.toNat) k x

/-- What stands at a position after a request bit is cleared. -/
theorem clearIrAt_getElem? (k j : Nat) (l : List Source) :
    (clearIrAt k l)[j]? = (l[j]?).map fun x => if k = j then { x with ir := false } else x := by
  have hmodify : clearIrAt k l = l.modify k fun x => { x with ir := false } := by
    induction l generalizing k with
    | nil => cases k <;> rfl
    | cons x l ih =>
      cases k with
      | zero => rfl
      | succ k => simp [clearIrAt, ih]
  rw [hmodify, List.getElem?_modify]
  rfl

/-- Two sources of which each outranks the other stand at one position. -/
theorem isBest_unique {l : List Source} {k j : Nat} {x y : Source} (hx : l[k]? = some x) (hy : l[j]? = some y)
    (h : isBest l k x) (h' : isBest l j y) : k = j := by
  obtain ⟨hir, hlvl, hout⟩ := h
  obtain ⟨hir', hlvl', hout'⟩ := h'
  rcases hout j y hy ⟨hir', hlvl'⟩ with h1 | ⟨e1, h1⟩
  · rcases hout' k x hx ⟨hir, hlvl⟩ with h2 | ⟨e2, -⟩
    · omega
    · rw [e2] at h1
      omega
  · rcases hout' k x hx ⟨hir, hlvl⟩ with h2 | ⟨-, h2⟩
    · rw [e1] at h2
      omega
    · omega

/-- The requests that a read of 00000h judges: present ones with a level above 0. -/
def judgedByRead (l : List Source) : List (Bool × BitVec 3) :=
  l.map fun x => (x.ir && decide (0 < x.ilvl.toNat), x.ilvl)

theorem judgedByRead_getElem? {l : List Source} {j : Nat} {lvl : BitVec 3} :
    (judgedByRead l)[j]? = some (true, lvl) ↔
      ∃ y, l[j]? = some y ∧ (y.ir = true ∧ 0 < y.ilvl.toNat) ∧ y.ilvl = lvl := by
  simp [judgedByRead]

/-- A read of 00000h chooses the best source, if there is one. -/
theorem clearBest_eq (l : List Source) :
    (clearBest l = l ∧ ∀ (k : Nat) (x : Source), l[k]? = some x → ¬ isBest l k x) ∨
      ∃ i y, l[i]? = some y ∧ isBest l i y ∧ clearBest l = clearIrAt i l := by
  have hdef : clearBest l = match bestOf 0 (judgedByRead l) with
    | some (k, _) => clearIrAt k l
    | none => l := rfl
  cases hbest : bestOf 0 (judgedByRead l) with
  | none =>
    refine .inl ⟨by rw [hdef, hbest], fun k x hx ⟨hir, hlvl, _⟩ => ?_⟩
    exact bestOf_eq_none hbest k x.ilvl (judgedByRead_getElem?.mpr ⟨x, hx, ⟨hir, hlvl⟩, rfl⟩)
  | some p =>
    obtain ⟨k, best⟩ := p
    obtain ⟨i, hi, htop, hmax⟩ := bestOf_eq_some hbest
    obtain ⟨y, hy, ⟨hir, hlvl⟩, rfl⟩ := judgedByRead_getElem?.mp htop
    refine .inr ⟨i, y, hy, ⟨hir, hlvl, fun j z hz hreq => ?_⟩, ?_⟩
    · exact hmax j z.ilvl (judgedByRead_getElem?.mpr ⟨z, hz, hreq, rfl⟩)
    · rw [hdef, hbest, hi, Nat.zero_add]

/-- A read of 00000h clears the request bit of the best source and changes nothing else. -/
theorem clearBest_getElem? {l : List Source} {k : Nat} {x : Source} (hx : l[k]? = some x) :
    (isBest l k x ∧ (clearBest l)[k]? = some { x with ir := false }) ∨
      (¬ isBest l k x ∧ (clearBest l)[k]? = some x) := by
  rcases clearBest_eq l with ⟨hsame, hno⟩ | ⟨i, y, hy, hbest, hclear⟩
  · exact .inr ⟨hno k x hx, hsame.symm ▸ hx⟩
  · rw [hclear, clearIrAt_getElem?, hx]
    by_cases hik : i = k
    · subst hik
      obtain rfl : x = y := Option.some.inj (hx.symm.trans hy)
      exact .inl ⟨hbest, by simp⟩
    · exact .inr ⟨fun h => hik (isBest_unique hy hx hbest h), by simp [hik]⟩

theorem readZero_source {s : State} {k : Nat} {x : Source} (hx : s.sources[k]? = some x) :
    ∃ y : Source, (readByte 0#20 s).2.sources[k]? = some y ∧ y.ilvl = x.ilvl ∧
      (isBest s.sources k x → y.ir = false) ∧ (¬ isBest s.sources k x → y.ir = x.ir) := by
  rw [readByte_state_sources, if_pos rfl]
  rcases clearBest_getElem? hx with ⟨hbest, hy⟩ | ⟨hno, hy⟩
  · exact ⟨_, hy, rfl, fun _ => rfl, fun h => absurd hbest h⟩
  · exact ⟨_, hy, rfl, fun h => absurd h hno, fun _ => rfl⟩

/-! Reads of other addresses (R555). -/

/-- Only the source whose register is read may find its request raised. -/
theorem raiseAt_getElem? {a : Addr} {b : Bool} {k : Nat} {l : List Source} {x : Source} (hx : l[k]? = some x) :
    ∃ ir, (raiseAt a b l)[k]? = some { x with ir := ir } ∧ (x.icr ≠ a → ir = x.ir) ∧ (x.ir = true → ir = true) := by
  induction l generalizing k with
  | nil => simp at hx
  | cons z l ih =>
    unfold raiseAt
    split
    · next hz =>
      cases k with
      | zero =>
        cases hx
        exact ⟨x.ir || b, rfl, fun h => absurd hz h, fun h => by simp [h]⟩
      | succ k => exact ⟨x.ir, hx, fun _ => rfl, id⟩
    · cases k with
      | zero =>
        cases hx
        exact ⟨x.ir, rfl, fun _ => rfl, id⟩
      | succ k => exact ih hx

theorem readOther_source {a : Addr} {s : State} (ha : a ≠ 0#20) {k : Nat} {x : Source}
    (hx : s.sources[k]? = some x) :
    ∃ y : Source, (readByte a s).2.sources[k]? = some y ∧ y.ilvl = x.ilvl ∧ y.num = x.num ∧ y.icr = x.icr ∧
      (x.icr ≠ a → y.ir = x.ir) ∧ (x.ir = true → y.ir = true) := by
  obtain ⟨ir, hy, hother, hset⟩ := raiseAt_getElem? (a := a) (b := Config.freeBit s.draws) hx
  rw [readByte_state_sources, if_neg ha]
  exact ⟨_, hy, rfl, rfl, rfl, hother, hset⟩

/-! A read of an interrupt control register (R552, R555). -/

/-- The source found at a register after its request may have been raised. -/
theorem icrAt_raiseAt {a : Addr} {b : Bool} {l : List Source} {x : Source} (h : icrAt l a = some x) :
    icrAt (raiseAt a b l) a = some { x with ir := x.ir || b } := by
  induction l with
  | nil => cases h
  | cons z l ih =>
    unfold raiseAt
    by_cases hz : z.icr = a
    · obtain rfl : z = x := by simpa [icrAt, hz] using h
      simp [icrAt, hz]
    · have hrest : icrAt l a = some x := by simpa [icrAt, hz] using h
      rw [if_neg hz]
      simpa [icrAt, hz] using ih hrest

/-- The register shows the level in bits 2 to 0 and the request bit in bit 3. -/
theorem icrByte_shows (x : Source) (n : Nat) :
    (icrByte x n).extractLsb' 0 3 = x.ilvl ∧ (icrByte x n).getLsbD 3 = (x.ir || Config.freeBit n) := by
  constructor
  · apply BitVec.eq_of_getLsbD_eq
    intro i hi
    rw [icrByte, BitVec.getLsbD_extractLsb', BitVec.getLsbD_append]
    simp [hi]
  · rw [icrByte, BitVec.getLsbD_append, BitVec.getLsbD_append]
    simp

/-- The byte that a read of a register gives. -/
theorem readByte_icr {a : Addr} {s : State} {x : Source} (ha : a ≠ 0#20) (hhole : s.isHole a = false)
    (h : icrAt s.sources a = some x) : (readByte a s).1 = icrByte x s.draws := by
  have hopen : s.isOpen a = false := by simp [State.isOpen, ha, hhole, h]
  show (busRead a s).1 = _
  simp [busRead, hopen, h]

theorem readByte_icr_shows {a : Addr} {s : State} {x y : Source} (ha : a ≠ 0#20) (hhole : s.isHole a = false)
    (hx : icrAt s.sources a = some x) (hy : icrAt (readByte a s).2.sources a = some y) :
    (readByte a s).1.extractLsb' 0 3 = x.ilvl ∧ (readByte a s).1.getLsbD 3 = y.ir := by
  rw [readByte_state_sources, if_neg ha, icrAt_raiseAt hx] at hy
  cases hy
  rw [readByte_icr ha hhole hx]
  exact icrByte_shows x s.draws

/-! A store to an interrupt control register (R555, R616). -/

/-- The source after a store: level and request bit as written, but for a request that a store other than `MOV` may
leave. -/
theorem storeIcr_result (k : StoreKind) (a : Addr) (v : Byte) (free : Bool) (n : Nat) (x : Source) :
    (x.icr = a → (storeIcr a v (k == .other && free) n x).ilvl = v.extractLsb' 0 3 ∧
      (v.getLsbD 3 = true → (storeIcr a v (k == .other && free) n x).ir = true) ∧
      (v.getLsbD 3 = false → (storeIcr a v (k == .other && free) n x).ir = true → k = .other ∧ x.ir = true)) ∧
    (x.icr ≠ a → (storeIcr a v (k == .other && free) n x).ilvl = x.ilvl ∧
      (storeIcr a v (k == .other && free) n x).ir = x.ir) := by
  constructor
  · intro hx
    rw [storeIcr, if_pos hx]
    refine ⟨rfl, fun hv => by simp [hv], fun hv hir => ?_⟩
    simp only [hv, Bool.false_or, Bool.and_eq_true, beq_iff_eq] at hir
    exact ⟨hir.2.1, hir.1⟩
  · intro hx
    rw [storeIcr, if_neg hx]
    exact ⟨rfl, rfl⟩

theorem writeByte_source {k : StoreKind} {a : Addr} {v : Byte} {s t : State} (ht : writeByte k a v s = .next t)
    {j : Nat} {x : Source} (hx : s.sources[j]? = some x) :
    t.sources[j]? = some (storeIcr a v (k == .other && Config.freeBit s.draws) s.product.storeWindow x) := by
  obtain ⟨-, rfl⟩ := writeByte_eq_next.mp ht
  simp [stored, hx]

/-- Settles O33: the read of 00000h, the other reads, what a register shows, and a store to one. -/
theorem requestBits : Obligations.RequestBits :=
  ⟨fun _ _ _ => readZero_source, fun _ _ ha _ _ => readOther_source ha,
    fun _ _ _ _ ha hhole hx hy => readByte_icr_shows ha hhole hx hy,
    fun k a v _ _ ht _ x hx => ⟨_, writeByte_source ht hx, storeIcr_result k a v _ _ x⟩⟩

end Sys2Proof.Machine
end

section
/-! PROOFS. Logic (R421 to R434), far data (R234, R236), pushes and pops (R221 to R230, R520, R522), and the bit
instructions that write (R262 to R278). -/

namespace Sys2Proof.Machine

/-- A sequential instruction whose stores can all be made runs its body and goes on to the next instruction. -/
theorem exec_completes {i : Instr} {body : State → Result} {s : State} {l : List Addr}
    (hexec : exec i s = sequential i body s) (hbody : Acts l s (body s))
    (h : i.wellFormed = true ∧ ∀ a ∈ l, s.writable a = true) :
    ∃ u, body s = .next u ∧ exec i s = .next (u.advance i.length) := by
  obtain ⟨hi, hw⟩ := h
  obtain ⟨u, hu⟩ := hbody.completes hw
  exact ⟨u, hu, hexec.trans (sequential_eq_next.mpr ⟨hi, u, hu, rfl⟩)⟩

/-! Logic (R421, R427, R433). -/

section
variable {i : Instr} {body : State → Result} {s : State} (p : TwoOperands)

/-- An `AND` leaves the conjunction with S and Z from it. -/
theorem exec_and (hexec : exec i s = sequential i body s) (hbody : body s = aluTo aluAnd p.z p.v p.l p.s)
    (hread : Touches [] s p.s) (h : i.wellFormed = true ∧ ∀ a ∈ locBytes p.z p.l, s.writable a = true) :
    ∃ t, exec i s = .next t ∧ p.leaves t fun _ d v r => r = d &&& v ∧ showsSZ r t.flg :=
  exec_aluTo hexec hbody (rel := fun _ d v r f => r = d &&& v ∧ showsSZ r f)
    (fun _ d v => ⟨rfl, setSZ_shows (d &&& v) s.flg⟩) hread h

/-- An `OR` leaves the disjunction with S and Z from it. -/
theorem exec_or (hexec : exec i s = sequential i body s) (hbody : body s = aluTo aluOr p.z p.v p.l p.s)
    (hread : Touches [] s p.s) (h : i.wellFormed = true ∧ ∀ a ∈ locBytes p.z p.l, s.writable a = true) :
    ∃ t, exec i s = .next t ∧ p.leaves t fun _ d v r => r = d ||| v ∧ showsSZ r t.flg :=
  exec_aluTo hexec hbody (rel := fun _ d v r f => r = d ||| v ∧ showsSZ r f)
    (fun _ d v => ⟨rfl, setSZ_shows (d ||| v) s.flg⟩) hread h

/-- An `XOR` leaves the exclusive disjunction with S and Z from it. -/
theorem exec_xor (hexec : exec i s = sequential i body s) (hbody : body s = aluTo aluXor p.z p.v p.l p.s)
    (hread : Touches [] s p.s) (h : i.wellFormed = true ∧ ∀ a ∈ locBytes p.z p.l, s.writable a = true) :
    ∃ t, exec i s = .next t ∧ p.leaves t fun _ d v r => r = d ^^^ v ∧ showsSZ r t.flg :=
  exec_aluTo hexec hbody (rel := fun _ d v r f => r = d ^^^ v ∧ showsSZ r f)
    (fun _ d v => ⟨rfl, setSZ_shows (d ^^^ v) s.flg⟩) hread h

end

theorem exec_andGSrc (sz : Size) (src dst : Operand) (s : State) :
    exec (.andGSrc sz src dst) s = execAndGSrc sz src dst s := rfl

theorem exec_andBSSrc (h : Half) (src : ShortSrc) (s : State) :
    exec (.andBSSrc h src) s = execAndBSSrc h src s := rfl

theorem exec_orGSrc (sz : Size) (src dst : Operand) (s : State) :
    exec (.orGSrc sz src dst) s = execOrGSrc sz src dst s := rfl

theorem exec_orBSSrc (h : Half) (src : ShortSrc) (s : State) :
    exec (.orBSSrc h src) s = execOrBSSrc h src s := rfl

theorem exec_xorSrc (sz : Size) (src dst : Operand) (s : State) :
    exec (.xorSrc sz src dst) s = execXorSrc sz src dst s := rfl

/-- Settles O48: an immediate is read with the instruction, a source operand by `readLoc`; either way the destination
takes the bitwise result. -/
theorem logicResult : Obligations.LogicResult :=
  ⟨fun v dst s h => exec_and (immTo v dst s) rfl rfl (.refl _ _) h,
   fun v dst s h => exec_and (shortImmTo v dst s) rfl rfl (.refl _ _) h,
   fun sz src dst s h => exec_and (srcTo sz src dst s) (exec_andGSrc sz src dst s) rfl (readLoc_touches _ _ _) h,
   fun hf src s h => exec_and (shortSrcTo hf src s) (exec_andBSSrc hf src s) rfl (readLoc_touches _ _ _) h,
   fun v dst s h => exec_or (immTo v dst s) rfl rfl (.refl _ _) h,
   fun v dst s h => exec_or (shortImmTo v dst s) rfl rfl (.refl _ _) h,
   fun sz src dst s h => exec_or (srcTo sz src dst s) (exec_orGSrc sz src dst s) rfl (readLoc_touches _ _ _) h,
   fun hf src s h => exec_or (shortSrcTo hf src s) (exec_orBSSrc hf src s) rfl (readLoc_touches _ _ _) h,
   fun v dst s h => exec_xor (immTo v dst s) rfl rfl (.refl _ _) h,
   fun sz src dst s h => exec_xor (srcTo sz src dst s) (exec_xorSrc sz src dst s) rfl (readLoc_touches _ _ _) h⟩

/-! Far data (R234, R236). -/

/-- What a load leaves does not depend on the destination before it. -/
theorem TwoOperands.leaves_of_source {z : Size} {v : BitVec (Size.bits z)} {l : Loc} {s s' t : State}
    {rel : (w : Nat) → BitVec w → BitVec w → Prop}
    (h : TwoOperands.leaves ⟨z, v, l, s'⟩ t fun w _ v r => rel w v r) :
    TwoOperands.leaves ⟨z, v, l, s⟩ t fun w _ v r => rel w v r := by
  cases z <;> cases l <;> exact h

theorem ldeFrom_result {z : Size} {far : Addr} {dst : Operand} {s u : State} (h : ldeFrom z far dst s = .next u) :
    TwoOperands.leaves ⟨z, (readMem z far s).1, s.loc dst, s⟩ u fun _ _ v r => r = v ∧ showsSZ r u.flg := by
  refine TwoOperands.leaves_of_source (rel := fun _ v r => r = v ∧ showsSZ r u.flg)
    (TwoOperands.leaves_mono (moveTo_result h) ?_)
  rintro w d v r ⟨rfl, hflg⟩
  rw [hflg]
  exact ⟨rfl, setSZ_shows r _⟩

/-- A completed store leaves the value in memory and FLG alone. -/
theorem writeMem_result {k : StoreKind} {z : Size} {a : Addr} {v : BitVec (Size.bits z)} {s t : State}
    (h : writeMem k z a v s = .next t) : t.valueAt z (.mem a) = v ∧ t.flg = s.flg := by
  have hloc : writeLoc k z (.mem a) v s = .next t := by
    cases z <;> exact h
  exact writeLoc_result hloc

theorem steTo_result {z : Size} {src : Operand} {far : Addr} {s u : State} (h : steTo z src far s = .next u) :
    farStored z src far s u := by
  obtain ⟨hvalue, hflg⟩ := writeMem_result h
  refine ⟨hvalue, ?_⟩
  cases z <;> cases src <;> rw [hflg] <;> exact setSZ_shows _ _

section
variable {i : Instr} {body : State → Result} {s : State} {z : Size} {far : Addr}

/-- A load from the far data area brings the datum to its destination. -/
theorem exec_lde (dst : Operand) (hexec : exec i s = sequential i body s) (hbody : body s = ldeFrom z far dst s)
    (h : i.wellFormed = true ∧ ∀ a ∈ locBytes z (s.loc dst), s.writable a = true) : ∃ t, exec i s = .next t ∧
      TwoOperands.leaves ⟨z, (readMem z far s).1, s.loc dst, s⟩ t fun _ _ v r => r = v ∧ showsSZ r t.flg := by
  obtain ⟨u, hu, ht⟩ := exec_completes hexec (hbody ▸ ldeFrom_acts z far dst s) h
  exact ⟨_, ht, TwoOperands.leaves_advance (ldeFrom_result (hbody ▸ hu))⟩

/-- A store to the far data area leaves the source there. -/
theorem exec_ste (src : Operand) (hexec : exec i s = sequential i body s) (hbody : body s = steTo z src far s)
    (h : i.wellFormed = true ∧ ∀ a ∈ sizeAt z far, s.writable a = true) :
    ∃ t, exec i s = .next t ∧ farStored z src far s t := by
  obtain ⟨u, hu, ht⟩ := exec_completes hexec (hbody ▸ steTo_acts z src far s) h
  obtain ⟨hvalue, hflags⟩ := steTo_result (hbody.symm.trans hu)
  refine ⟨_, ht, ?_, ?_⟩
  · cases z <;> exact hvalue
  · cases z <;> cases src <;> exact hflags

end

theorem exec_ldeAbs20 (sz : Size) (a : BitVec 20) (dst : Operand) (s : State) :
    exec (.ldeAbs20 sz a dst) s = sequential (.ldeAbs20 sz a dst) (fun s => ldeFrom sz a dst s) s := rfl

theorem exec_ldeDsp20 (sz : Size) (d : BitVec 20) (dst : Operand) (s : State) :
    exec (.ldeDsp20 sz d dst) s = sequential (.ldeDsp20 sz d dst) (fun s => ldeFrom sz (s.farDsp d) dst s) s := rfl

theorem exec_ldeA1A0 (sz : Size) (dst : Operand) (s : State) :
    exec (.ldeA1A0 sz dst) s = sequential (.ldeA1A0 sz dst) (fun s => ldeFrom sz s.farPair dst s) s := rfl

theorem exec_steAbs20 (sz : Size) (src : Operand) (a : BitVec 20) (s : State) :
    exec (.steAbs20 sz src a) s = sequential (.steAbs20 sz src a) (fun s => steTo sz src a s) s := rfl

theorem exec_steDsp20 (sz : Size) (src : Operand) (d : BitVec 20) (s : State) :
    exec (.steDsp20 sz src d) s = sequential (.steDsp20 sz src d) (fun s => steTo sz src (s.farDsp d) s) s := rfl

theorem exec_steA1A0 (sz : Size) (src : Operand) (s : State) :
    exec (.steA1A0 sz src) s = sequential (.steA1A0 sz src) (fun s => steTo sz src s.farPair s) s := rfl

/-- Settles O35: the six forms by their far address. -/
theorem farData : Obligations.FarData :=
  ⟨fun sz a dst s h => exec_lde dst (exec_ldeAbs20 sz a dst s) rfl h,
    fun sz d dst s h => exec_lde dst (exec_ldeDsp20 sz d dst s) rfl h,
    fun sz dst s h => exec_lde dst (exec_ldeA1A0 sz dst s) rfl h,
    fun sz src a s h => exec_ste src (exec_steAbs20 sz src a s) rfl h,
    fun sz src d s h => exec_ste src (exec_steDsp20 sz src d s) rfl h,
    fun sz src s h => exec_ste src (exec_steA1A0 sz src s) rfl h⟩

/-! Pushes (R104, R226 to R230, R522). -/

theorem pushSized_result {z : Size} {v : BitVec (Size.bits z)} {s : State}
    (h : ∀ a ∈ sizeAt z (pushAt z s.sp), s.writable a = true) :
    ∃ t, pushSized z v s = .next t ∧ pushed z v s t := by
  cases z
  · obtain ⟨t, ht, hsp, hvalue, -⟩ := push8_result (v := v) (h _ List.mem_cons_self)
    exact ⟨t, ht, hsp, hvalue⟩
  · obtain ⟨t, ht, hsp, hvalue, -⟩ := push16_result (v := v) (h _ List.mem_cons_self)
      (h _ (List.mem_cons_of_mem _ List.mem_cons_self))
    exact ⟨t, ht, hsp, hvalue⟩

/-- A push of a value that was read first. -/
theorem exec_push {i : Instr} {body : State → Result} {s s' : State} (z : Size) (v : BitVec (Size.bits z))
    (hexec : exec i s = sequential i body s) (hbody : body s = pushSized z v s') (hread : Touches [] s s')
    (h : i.wellFormed = true ∧ ∀ a ∈ sizeAt z (pushAt z s.sp), s.writable a = true) :
    ∃ t, exec i s = .next t ∧ pushed z v s t := by
  obtain ⟨hi, hw⟩ := h
  obtain ⟨u, hu, hsp, hvalue⟩ := pushSized_result (z := z) (v := v) (s := s') fun a ha => by
    rw [hread.sp] at ha
    rw [hread.writable]
    exact hw a ha
  rw [hread.sp] at hsp
  refine ⟨_, hexec.trans (sequential_eq_next.mpr ⟨hi, u, hbody.trans hu, rfl⟩), hsp, ?_⟩
  cases z <;> exact hvalue

/-! Pops (R221 to R223). -/

/-- A pop reads at the stack pointer and raises it by the size. -/
theorem popSized_eq (z : Size) (s : State) :
    popSized z s = ((readMem z (near s.sp) s).1, (readMem z (near s.sp) s).2.setSp (s.sp + elem z)) := by
  cases z <;> rfl

theorem writeLoc_sp {k : StoreKind} {z : Size} {l : Loc} {v : BitVec (Size.bits z)} {s t : State}
    (h : writeLoc k z l v s = .next t) : t.sp = s.sp := by
  cases z <;> cases l
  case b.mem a => exact (writeMem_touches (z := .b) h).sp
  case w.mem a => exact (writeMem_touches (z := .w) h).sp
  case b.data r => cases h; exact State.setDreg8_sp s r v
  case w.data r => cases h; exact State.setDreg16_sp s r v
  case b.addr a => cases h; exact State.setAreg_sp s a _
  case w.addr a => cases h; exact State.setAreg_sp s a v

theorem State.valueAt_advance (s : State) (n : Nat) (z : Size) (l : Loc) :
    (s.advance n).valueAt z l = s.valueAt z l := by
  cases z <;> cases l <;> rfl

theorem exec_popG (z : Size) (dst : Operand) (s : State) : exec (.popG z dst) s =
    sequential (.popG z dst) (fun s => writeLoc .other z (s.loc dst) (popSized z s).1 (popSized z s).2) s := rfl

theorem popG_result {z : Size} {dst : Operand} {s : State} (h : s.allows (.popG z dst)) :
    ∃ t, exec (.popG z dst) s = .next t ∧ t.valueAt z (s.loc dst) = (readMem z (near s.sp) s).1 ∧
      t.sp = s.sp + elem z := by
  have hacts : Acts (locBytes z (s.loc dst)) s
      (writeLoc .other z (s.loc dst) (popSized z s).1 (popSized z s).2) :=
    .after (popSized_keeps z s) (writeLoc_acts .other z (s.loc dst) _ _)
  obtain ⟨u, hu, ht⟩ := exec_completes (exec_popG z dst s) hacts h
  refine ⟨_, ht, ?_, ?_⟩
  · rw [State.valueAt_advance, (writeLoc_result hu).1, popSized_eq]
  · rw [State.advance_sp, writeLoc_sp hu, popSized_eq, State.setSp_sp]

theorem popBS_result (h : Half) (s : State) : ∃ t, exec (.popBS h) s = .next t ∧
    t.dreg8 (halfDreg h) = (readMem .b (near s.sp) s).1 ∧ t.sp = s.sp + 1 := by
  refine ⟨((pop8 s).2.setDreg8 (halfDreg h) (pop8 s).1).advance (Instr.popBS h).length, rfl, ?_, ?_⟩
  · exact State.setDreg8_dreg8 _ _ _
  · rw [State.advance_sp, State.setDreg8_sp]
    exact State.setSp_sp _ _

theorem popWS_result (a : AReg) (s : State) : ∃ t, exec (.popWS a) s = .next t ∧
    t.areg a = (readMem .w (near s.sp) s).1 ∧ t.sp = s.sp + 2 := by
  refine ⟨((pop16 s).2.setAreg a (pop16 s).1).advance (Instr.popWS a).length, rfl, ?_, ?_⟩
  · exact State.setAreg_areg _ _ _
  · rw [State.advance_sp, State.setAreg_sp]
    exact State.setSp_sp _ _

/-! `POPC` (R520). -/

theorem Flg.toWord_getLsbD (f : Flg) (k : Nat) : f.toWord.getLsbD k =
    BitVec.getLsbD (0#1 ++ f.ipl ++ 0#4 ++ BitVec.ofBool f.u ++ BitVec.ofBool f.i ++ BitVec.ofBool f.o ++
      BitVec.ofBool f.b ++ BitVec.ofBool f.s ++ BitVec.ofBool f.z ++ BitVec.ofBool f.d ++ BitVec.ofBool f.c) k := rfl

/-- FLG keeps all bits written but the reserved ones, bit by bit (R50). -/
theorem Flg.toWord_ofWord (v : Word) : (Flg.ofWord v).toWord = v &&& 0x70FF#16 := by
  refine BitVec.eq_of_getLsbD_eq fun k hk => ?_
  rw [Flg.toWord_getLsbD]
  interval_cases k <;>
    simp only [Flg.ofWord, BitVec.getLsbD_append, BitVec.getLsbD_extractLsb', BitVec.getLsbD_ofBool,
      BitVec.getLsbD_and] <;> simp

/-- The high part of INTB has four bits, so `INTBH` keeps the lowest four (R37). -/
theorem State.setCreg_intbh (s : State) (v : Word) : (s.setCreg .intbh v).creg .intbh = v &&& 0x000F#16 := by
  have hhigh : (s.setCreg .intbh v).intb.extractLsb' 16 4 = v.extractLsb' 0 4 := BitVec.extractLsb'_append_eq_left
  refine BitVec.eq_of_getLsbD_eq fun k hk => ?_
  simp only [State.creg, hhigh]
  interval_cases k <;> simp

/-- A control register holds what it keeps of the bits written (R37, R50). -/
theorem State.setCreg_creg (s : State) (c : CReg) (v : Word) : (s.setCreg c v).creg c = cregBits c v := by
  cases c
  case intbl => exact BitVec.extractLsb'_append_eq_right
  case intbh => exact State.setCreg_intbh s v
  case flg => exact Flg.toWord_ofWord v
  case sp => exact State.setSp_sp s v
  case fb => exact State.setFb_fb s v
  case isp | sb => rfl

/-- The stack pointer selected before a control register is written holds the value if it is the register, and is
otherwise as it was. -/
theorem State.setCreg_spOf (s : State) (c : CReg) (v : Word) :
    (s.setCreg c v).spOf s = if c = .sp ∨ (c = .isp ∧ s.flg.u = false) then v else s.sp := by
  cases hu : s.flg.u <;> cases c <;> simp [State.spOf, State.setCreg, State.sp, hu]

theorem State.advance_creg (s : State) (n : Nat) (c : CReg) : (s.advance n).creg c = s.creg c := by
  cases c <;> rfl

/-- What follows the transfer to a control register leaves the registers as they are. -/
theorem afterPopc_loadCreg (c : CReg) (v : Word) (s t : State) :
    (afterPopc s (loadCreg c v s t)).creg c = (t.setCreg c v).creg c ∧
      (afterPopc s (loadCreg c v s t)).spOf s = (t.setCreg c v).spOf s := by
  obtain ⟨l, hl⟩ := afterPopc_eq s (loadCreg c v s t)
  rw [hl]
  exact ⟨by cases c <;> rfl, rfl⟩

/-- The state in which `POPC` writes its register: SP has moved unless it is the register (R520). -/
def popcRead (c : CReg) (s : State) : State :=
  if c = .sp ∨ (c = .isp ∧ s.flg.u = false) then (readWord (near s.sp) s).2
  else (readWord (near s.sp) s).2.setSp (s.sp + 2)

theorem popcRead_flg (c : CReg) (s : State) : (popcRead c s).flg = s.flg := by
  unfold popcRead
  split <;> exact (readWord_touches (near s.sp) s).flg

theorem popcRead_sp {c : CReg} {s : State} (h : ¬(c = .sp ∨ (c = .isp ∧ s.flg.u = false))) :
    (popcRead c s).sp = s.sp + 2 := by
  rw [popcRead, if_neg h, State.setSp_sp]

theorem State.spOf_eq_of_flg {s s' : State} (h : s.flg = s'.flg) (t : State) : t.spOf s = t.spOf s' := by
  rw [State.spOf, State.spOf, h]

theorem exec_popc (c : CReg) (s : State) : exec (.popc c) s = .next
    ((afterPopc s (loadCreg c (readMem .w (near s.sp) s).1 s (popcRead c s))).advance (Instr.popc c).length) := rfl

theorem popc_result (c : CReg) (s : State) : ∃ t, exec (.popc c) s = .next t ∧
    t.creg c = cregBits c (readMem .w (near s.sp) s).1 ∧
    t.spOf s = if c = .sp ∨ (c = .isp ∧ s.flg.u = false) then (readMem .w (near s.sp) s).1 else s.sp + 2 := by
  obtain ⟨hcreg, hspOf⟩ := afterPopc_loadCreg c (readMem .w (near s.sp) s).1 s (popcRead c s)
  refine ⟨_, exec_popc c s, ?_, ?_⟩
  · rw [State.advance_creg, hcreg, State.setCreg_creg]
  · have hsp : ((popcRead c s).setCreg c (readMem .w (near s.sp) s).1).spOf s =
        if c = .sp ∨ (c = .isp ∧ s.flg.u = false) then (readMem .w (near s.sp) s).1 else (popcRead c s).sp := by
      rw [State.spOf_eq_of_flg (popcRead_flg c s).symm, State.setCreg_spOf, popcRead_flg]
    exact (hspOf.trans hsp).trans (ite_congr rfl (fun _ => rfl) popcRead_sp)

theorem exec_pushGImm (v : Imm) (s : State) :
    exec (.pushGImm v) s = sequential (.pushGImm v) (fun s => pushSized v.size (immVal v) s) s := rfl

theorem exec_pushG (z : Size) (src : Operand) (s : State) : exec (.pushG z src) s =
    sequential (.pushG z src) (fun s => pushSized z (readLoc z (s.loc src) s).1 (readLoc z (s.loc src) s).2) s := rfl

/-- Settles O37: a push by `exec_push` at its value, a pop by the read at SP. -/
theorem pushPop : Obligations.PushPop :=
  ⟨fun v s h => exec_push v.size (immVal v) (exec_pushGImm v s) rfl (.refl _ _) h,
   fun sz src s h => exec_push sz _ (exec_pushG sz src s) rfl (readLoc_touches _ _ _) h,
   fun hf s h => exec_push .b (s.dreg8 (halfDreg hf)) (rfl : _ = execPushBS hf s) rfl (.refl _ _) h,
   fun a s h => exec_push .w (s.areg a) (rfl : _ = execPushWS a s) rfl (.refl _ _) h,
   fun src s h => exec_push .w (s.ea src) (rfl : _ = execPusha src s) rfl (.refl _ _) h,
   fun c s h => exec_push .w (s.creg c) (rfl : _ = execPushc c s) rfl (.refl _ _) h,
   fun _ _ _ h => popG_result h, popBS_result, popWS_result, popc_result⟩

/-! The bit instructions that write (R117, R262 to R265, R268, R269, R273, R274, R277, R278). -/

/-- One bit replaced, the others as they were. -/
theorem setBit_getLsbD {w : Nat} (v : BitVec w) (n : Nat) (b : Bool) {k : Nat} (hk : k < w) :
    (setBit v n b).getLsbD k = if k = n then b else v.getLsbD k := by
  rcases eq_or_ne k n with rfl | hkn
  · cases b <;> simp [setBit, hk]
  · cases b <;> simp [setBit, hk, hkn]

theorem bitModify_result {l : BitLoc} {new : Bool → Bool} {f : Bool → Flg → Flg} {s t : State}
    (h : bitModify l new f s = .next t) :
    bitWritten l (new (bitRead l s).1) s t ∧ t.flg = f (bitRead l s).1 s.flg := by
  cases l with
  | reg r n =>
    cases h
    refine ⟨fun k hk => ?_, State.setReg16_flg _ r _⟩
    rw [State.setReg16_reg16, setBit_getLsbD _ _ _ hk]
    rfl
  | mem a n =>
    obtain ⟨-, rfl⟩ := writeByte_eq_next.mp h
    refine ⟨fun k hk => ?_, rfl⟩
    rw [State.record_mem, stored_read_same, setBit_getLsbD _ _ _ hk]
    rfl

/-- A bit instruction that writes replaces the bit by one made from the bit read, and sets the flags from that bit. -/
theorem exec_bitModify {i : Instr} {body : State → Result} {s : State} {l : BitLoc} {new : Bool → Bool}
    {f : Bool → Flg → Flg} (hexec : exec i s = sequential i body s) (hbody : body s = bitModify l new f s)
    (h : i.wellFormed = true ∧ ∀ a ∈ bitBytes l, s.writable a = true) :
    ∃ t, exec i s = .next t ∧ bitWritten l (new (bitRead l s).1) s t ∧ t.flg = f (bitRead l s).1 s.flg := by
  obtain ⟨u, hu, ht⟩ := exec_completes hexec (hbody ▸ bitModify_acts l new f s) h
  obtain ⟨hbit, hflg⟩ := bitModify_result (hbody.symm.trans hu)
  exact ⟨_, ht, by cases l <;> exact hbit, hflg⟩

/-- `BCLR`, `BSET`, `BNOT` and `BMCnd` leave the flags. -/
theorem exec_bitModify_written {i : Instr} {body : State → Result} {s : State} {l : BitLoc} {new : Bool → Bool}
    (hexec : exec i s = sequential i body s) (hbody : body s = bitModify l new bitNoFlags s)
    (h : i.wellFormed = true ∧ ∀ a ∈ bitBytes l, s.writable a = true) :
    ∃ t, exec i s = .next t ∧ bitWritten l (new (bitRead l s).1) s t := by
  obtain ⟨t, ht, hbit, -⟩ := exec_bitModify hexec hbody h
  exact ⟨t, ht, hbit⟩

/-- `BTSTC` and `BTSTS` show the bit read in C and its inverse in Z. -/
theorem exec_bitModify_shown {i : Instr} {body : State → Result} {s : State} {l : BitLoc} {new : Bool → Bool}
    (hexec : exec i s = sequential i body s) (hbody : body s = bitModify l new bitToZC s)
    (h : i.wellFormed = true ∧ ∀ a ∈ bitBytes l, s.writable a = true) :
    ∃ t, exec i s = .next t ∧ bitWritten l (new (bitRead l s).1) s t ∧ t.flg.c = (bitRead l s).1 ∧
      t.flg.z = !(bitRead l s).1 := by
  obtain ⟨t, ht, hbit, hflg⟩ := exec_bitModify hexec hbody h
  exact ⟨t, ht, hbit, by rw [hflg]; rfl, by rw [hflg]; rfl⟩

/-- Settles O41: the forms differ in the place of the bit, the new bit and whether the flags show the old one. -/
theorem bitWrites : Obligations.BitWrites :=
  ⟨fun d s h => exec_bitModify_written (new := fun _ => false) (rfl : _ = execBclrG d s) rfl h,
   fun n d s h => exec_bitModify_written (new := fun _ => false) (rfl : _ = execBclrS n d s) rfl h,
   fun d s h => exec_bitModify_written (new := fun _ => true) (rfl : _ = execBsetG d s) rfl h,
   fun n d s h => exec_bitModify_written (new := fun _ => true) (rfl : _ = execBsetS n d s) rfl h,
   fun d s h => exec_bitModify_written (new := fun b => !b) (rfl : _ = execBnotG d s) rfl h,
   fun n d s h => exec_bitModify_written (new := fun b => !b) (rfl : _ = execBnotS n d s) rfl h,
   fun d s h => exec_bitModify_shown (new := fun _ => false) (rfl : _ = execBtstc d s) rfl h,
   fun d s h => exec_bitModify_shown (new := fun _ => true) (rfl : _ = execBtsts d s) rfl h,
   fun d c s h => exec_bitModify_written (new := fun _ => condHolds c s.flg) (rfl : _ = execBmcnd d c s) rfl h,
   fun _ _ => ⟨_, rfl, rfl⟩⟩

end Sys2Proof.Machine
end

section
/-! PROOFS. Decoding and encoding (R140 to R171). -/

namespace Sys2Proof

/-! Codes of one field: each is read back, and stands for no other value (R150 to R159). -/

theorem bit_sizeOf : ∀ v, (sizeOf v).bit = v := by decide
theorem aregOf_bit (a : AReg) : aregOf a.bit = a := by cases a <;> rfl
theorem bit_aregOf : ∀ v, (aregOf v).bit = v := by decide
theorem halfOf_bit (h : Half) : halfOf h.bit = h := by cases h <;> rfl
theorem bit_halfOf : ∀ v, (halfOf v).bit = v := by decide
theorem bit_dpairOf : ∀ v, (dpairOf v).bit = v := by decide
theorem code_dregOf : ∀ v, (dregOf v).code = v := by decide
theorem code_flagOf : ∀ v, (flagOf v).code = v := by decide

theorem reg16Of_eq_some {v : BitVec 3} {r : Reg16} : reg16Of v = some r ↔ r.code = v := by
  cases r <;> revert v <;> decide
theorem cregOf_eq_some {v : BitVec 3} {c : CReg} : cregOf v = some c ↔ c.code = v := by
  cases c <;> revert v <;> decide
theorem condOf_eq_some {v : BitVec 4} {c : Cond} : condOf v = some c ↔ c.code = v := by
  cases c <;> revert v <;> decide
theorem condByteOf_eq_some {v : Byte} {c : Cond} : condByteOf v = some c ↔ c.byte = v := by
  cases c <;> revert v <;> decide
theorem pairOf_eq_some {v : BitVec 4} {p : Pair} : pairOf v = some p ↔ p.code = v := by
  cases p <;> revert v <;> decide

/-! Cutting a field in two, and the values of a short field one by one. -/

theorem append_extract {m n : Nat} (v : BitVec (m + n)) : v.extractLsb' n m ++ v.extractLsb' 0 n = v := by
  rw [BitVec.extractLsb'_append_extractLsb'_eq_extractLsb' (Nat.zero_add n).symm, BitVec.extractLsb'_eq_self]

/-- A property of all three-bit codes, code by code. -/
theorem codes3 {P : BitVec 3 → Prop} (h0 : P 0#3) (h1 : P 1#3) (h2 : P 2#3) (h3 : P 3#3) (h4 : P 4#3) (h5 : P 5#3)
    (h6 : P 6#3) (h7 : P 7#3) : ∀ v, P v := by
  intro v
  have hv : v = 0#3 ∨ v = 1#3 ∨ v = 2#3 ∨ v = 3#3 ∨ v = 4#3 ∨ v = 5#3 ∨ v = 6#3 ∨ v = 7#3 := by
    revert v; decide
  rcases hv with rfl | rfl | rfl | rfl | rfl | rfl | rfl | rfl <;> assumption

/-- A property of all four-bit codes, code by code. -/
theorem codes4 {P : BitVec 4 → Prop} (h0 : P 0#4) (h1 : P 1#4) (h2 : P 2#4) (h3 : P 3#4) (h4 : P 4#4) (h5 : P 5#4)
    (h6 : P 6#4) (h7 : P 7#4) (h8 : P 8#4) (h9 : P 9#4) (h10 : P 10#4) (h11 : P 11#4) (h12 : P 12#4) (h13 : P 13#4)
    (h14 : P 14#4) (h15 : P 15#4) : ∀ v, P v := by
  have hlow : ∀ x : BitVec 3, P (0#1 ++ x) := codes3 h0 h1 h2 h3 h4 h5 h6 h7
  have hhigh : ∀ x : BitVec 3, P (1#1 ++ x) := codes3 h8 h9 h10 h11 h12 h13 h14 h15
  intro v
  have hbit : v.extractLsb' 3 1 = 0#1 ∨ v.extractLsb' 3 1 = 1#1 := by revert v; decide
  rw [← append_extract (m := 1) (n := 3) v]
  rcases hbit with h | h <;> rw [h]
  · exact hlow _
  · exact hhigh _

/-! What a parser reads. -/

/-- The parser reads the value from these bytes, whatever follows them. -/
def Reads {α : Type} (p : Parser α) (bs : List Byte) (x : α) : Prop := ∀ rest, p (bs ++ rest) = .ok (x, rest)

/-- Whatever the parser reads has the property, and after the bytes already read its own bytes are the ones read. -/
def Spells {α : Type} (p : Parser α) (read : List Byte) (P : α → Prop) (spell : α → List Byte) : Prop :=
  ∀ bs x rest, p bs = .ok (x, rest) → P x ∧ read ++ bs = spell x ++ rest

theorem pthen_eq_ok {α β : Type} {p : Parser α} {f : α → Parser β} {bs rest : List Byte} {y : β} :
    pthen p f bs = .ok (y, rest) ↔ ∃ x mid, p bs = .ok (x, mid) ∧ f x mid = .ok (y, rest) := by
  unfold pthen
  cases h : p bs with
  | error e => simp
  | ok r => obtain ⟨x, mid⟩ := r; simp

section
variable {α β : Type} {p q : Parser α} {f : α → Parser β} {a b : List Byte} {x : α} {y : β}

theorem Reads.done : Reads (pdone x) [] x := fun _ => rfl

/-- One parser after another. -/
theorem Reads.then (h : Reads p a x) (k : Reads (f x) b y) : Reads (pthen p f) (a ++ b) y := fun rest => by
  rw [pthen_eq_ok, List.append_assoc]
  exact ⟨x, b ++ rest, h _, k _⟩

/-- A parser whose value only has to be wrapped. -/
theorem Reads.map {k : α → β} (h : Reads p a x) : Reads (pthen p fun x => pdone (k x)) a (k x) := by
  simpa using h.then (f := fun x => pdone (k x)) (b := []) .done

/-- A code that has to stand for something. -/
theorem Reads.need {e : DecodeError} {o : Option α} (h : o = some x) (k : Reads (f x) b y) :
    Reads (pthen (pneed e o) f) b y := by
  subst h; exact k

variable {P : α → Prop} {Q : β → Prop} {spell : α → List Byte} {spell' : β → List Byte} {read : List Byte}

theorem Spells.done (hx : P x) (hs : read = spell x) : Spells (pdone x) read P spell := by
  rintro bs x rest ⟨⟩
  exact ⟨hx, by rw [hs]⟩

theorem Spells.fail (e : DecodeError) : Spells (pfail e) read P spell := by
  rintro bs x rest ⟨⟩

/-- One parser after another. -/
theorem Spells.then (h : Spells p [] P spell) (k : ∀ x, P x → Spells (f x) (read ++ spell x) Q spell') :
    Spells (pthen p f) read Q spell' := by
  intro bs y rest hy
  obtain ⟨x, mid, hx, hmid⟩ := pthen_eq_ok.mp hy
  obtain ⟨hP, hbs⟩ := h bs x mid hx
  have hk := k x hP mid y rest hmid
  rwa [List.append_assoc, ← hbs] at hk

/-- A parser whose value only has to be wrapped. -/
theorem Spells.map {k : α → β} (h : Spells p [] P spell) (hk : ∀ x, P x → Q (k x) ∧ read ++ spell x = spell' (k x)) :
    Spells (pthen p fun x => pdone (k x)) read Q spell' :=
  h.then fun x hx => .done (hk x hx).1 (hk x hx).2

/-- A code that has to stand for something. -/
theorem Spells.need {e : DecodeError} {o : Option α} {g : α → Parser β}
    (k : ∀ x, o = some x → Spells (g x) read Q spell') : Spells (pthen (pneed e o) g) read Q spell' := by
  cases o with
  | none => rintro bs y rest ⟨⟩
  | some x => exact k x rfl

theorem Spells.ite {c : Prop} [Decidable c] (h : c → Spells p read P spell) (k : ¬c → Spells q read P spell) :
    Spells (if c then p else q) read P spell := by
  split
  · exact h ‹_›
  · exact k ‹_›

end

/-! Fields (R155). -/

theorem take8_reads (b : Byte) : Reads take8 [b] b := fun _ => rfl

theorem take8_spells : Spells take8 [] (fun _ => True) fun b => [b] := by
  rintro (_ | ⟨b, bs⟩) x rest ⟨⟩
  exact ⟨trivial, rfl⟩

theorem le16_append (hi lo : Byte) : le16 (hi ++ lo) = [lo, hi] := by
  rw [le16, BitVec.extractLsb'_append_eq_left, BitVec.extractLsb'_append_eq_right]

theorem take16_reads (v : Word) : Reads take16 (le16 v) v := by
  rw [← append_extract (m := 8) (n := 8) v, le16_append]
  exact fun _ => rfl

theorem take16_spells : Spells take16 [] (fun _ => True) le16 :=
  take8_spells.then fun lo _ => take8_spells.map fun hi _ => ⟨trivial, (le16_append hi lo).symm⟩

theorem le20_append (hi : BitVec 4) (lo : Word) : le20 (hi ++ lo) = le16 lo ++ [0#4 ++ hi] := by
  rw [le20, BitVec.extractLsb'_append_eq_left, BitVec.extractLsb'_append_eq_of_add_le (by decide),
    BitVec.extractLsb'_append_eq_of_add_le (by decide)]
  rfl

theorem take20_reads (v : Addr) : Reads take20 (le20 v) v := by
  rw [← append_extract (m := 4) (n := 16) v, le20_append]
  refine (take16_reads _).then fun rest => ?_
  change (if (0#4 ++ v.extractLsb' 16 4).extractLsb' 4 4 = 0#4 then pdone _ else pfail .reserved : Parser Addr) rest = _
  rw [BitVec.extractLsb'_append_eq_left, BitVec.extractLsb'_append_eq_right]
  rfl

theorem take20_spells : Spells take20 [] (fun _ => True) le20 :=
  take16_spells.then fun lo _ => take8_spells.then fun hi _ => .ite
    (fun h => .done trivial (by rw [le20_append, ← h, append_extract (m := 4) (n := 4)]; rfl))
    fun _ => .fail _

theorem takeImm_reads {v : Imm} {z : Size} (h : v.size = z) : Reads (takeImm z) v.bytes v := by
  subst h
  cases v with
  | b v => exact (take8_reads v).map
  | w v => exact (take16_reads v).map

theorem takeImm_spells (z : Size) : Spells (takeImm z) [] (fun v => v.size = z) Imm.bytes := by
  cases z
  · exact take8_spells.map fun _ _ => ⟨rfl, rfl⟩
  · exact take16_spells.map fun _ _ => ⟨rfl, rfl⟩

/-! Operands (R150 to R156, R448, R449, R527). -/

theorem Ea.eq_ind_of_isInd {e : Ea} (h : e.isInd = true) : ∃ a, e = .ind a := by
  cases e with
  | ind a => exact ⟨a, rfl⟩
  | _ => cases h

theorem Ea.code_of_not_isInd {e : Ea} (h : e.isInd = false) : e.code = 1#1 ++ e.relCode := by
  cases e with
  | ind a => cases h
  | _ => rfl

theorem takeEaRel_reads {e : Ea} (h : e.isInd = false) : Reads (takeEaRel e.relCode) e.bytes e := by
  cases e with
  | ind a => cases h
  | rel8 a d => cases a <;> exact (take8_reads d).map
  | sb8 d => exact (take8_reads d).map
  | fb8 d => exact (take8_reads d).map
  | rel16 a d => cases a <;> exact (take16_reads d).map
  | sb16 d => exact (take16_reads d).map
  | abs16 d => exact (take16_reads d).map

theorem takeEaRel_spells : ∀ v, Spells (takeEaRel v) [] (fun e => e.isInd = false ∧ e.relCode = v) Ea.bytes :=
  codes3 (take8_spells.map fun _ _ => ⟨⟨rfl, rfl⟩, rfl⟩) (take8_spells.map fun _ _ => ⟨⟨rfl, rfl⟩, rfl⟩)
    (take8_spells.map fun _ _ => ⟨⟨rfl, rfl⟩, rfl⟩) (take8_spells.map fun _ _ => ⟨⟨rfl, rfl⟩, rfl⟩)
    (take16_spells.map fun _ _ => ⟨⟨rfl, rfl⟩, rfl⟩) (take16_spells.map fun _ _ => ⟨⟨rfl, rfl⟩, rfl⟩)
    (take16_spells.map fun _ _ => ⟨⟨rfl, rfl⟩, rfl⟩) (take16_spells.map fun _ _ => ⟨⟨rfl, rfl⟩, rfl⟩)

theorem takeOperand_rel : ∀ v, takeOperand (1#1 ++ v) = pthen (takeEaRel v) fun e => pdone (.mem e) :=
  codes3 rfl rfl rfl rfl rfl rfl rfl rfl

theorem takeOperand_reads (o : Operand) : Reads (takeOperand o.code) o.bytes o := by
  cases o with
  | data r => cases r <;> exact .done
  | addr a => cases a <;> exact .done
  | mem e =>
    cases h : e.isInd with
    | true =>
      obtain ⟨a, rfl⟩ := Ea.eq_ind_of_isInd h
      cases a <;> exact .done
    | false =>
      rw [show Operand.code (.mem e) = 1#1 ++ e.relCode from Ea.code_of_not_isInd h, takeOperand_rel]
      exact (takeEaRel_reads h).map

theorem takeOperand_spells : ∀ v, Spells (takeOperand v) [] (fun o => o.code = v) Operand.bytes :=
  have mem (v : BitVec 3) : Spells (takeOperand (1#1 ++ v)) [] (fun o => o.code = 1#1 ++ v) Operand.bytes := by
    rw [takeOperand_rel]
    refine (takeEaRel_spells v).map ?_
    rintro e ⟨he, rfl⟩
    exact ⟨Ea.code_of_not_isInd he, rfl⟩
  codes4 (.done rfl rfl) (.done rfl rfl) (.done rfl rfl) (.done rfl rfl) (.done rfl rfl) (.done rfl rfl) (.done rfl rfl)
    (.done rfl rfl) (mem 0#3) (mem 1#3) (mem 2#3) (mem 3#3) (mem 4#3) (mem 5#3) (mem 6#3) (mem 7#3)

theorem ShortMem.code_eq (m : ShortMem) : m.code = 1#2 ∨ m.code = 2#2 ∨ m.code = 3#2 := by
  cases m <;> simp [ShortMem.code]

theorem takeShortMem_reads (m : ShortMem) : Reads (takeShortMem m.code) m.bytes m := by
  cases m with
  | sb8 d => exact (take8_reads d).map
  | fb8 d => exact (take8_reads d).map
  | abs16 d => exact (take16_reads d).map

theorem takeShortMem_spells (v : BitVec 2) : Spells (takeShortMem v) [] (fun m => m.code = v) ShortMem.bytes :=
  .ite (fun h => take8_spells.map fun _ _ => ⟨h.symm, rfl⟩) fun _ =>
    .ite (fun h => take8_spells.map fun _ _ => ⟨h.symm, rfl⟩) fun _ =>
      .ite (fun h => take16_spells.map fun _ _ => ⟨h.symm, rfl⟩) fun _ => .fail _

theorem takeShortSrc_mem (m : ShortMem) :
    takeShortSrc (ShortSrc.mem m).code = pthen (takeShortMem m.code) fun m => pdone (.mem m) := by
  cases m <;> rfl

theorem takeShortSrc_reads (x : ShortSrc) : Reads (takeShortSrc x.code) x.bytes x := by
  cases x with
  | other => exact .done
  | mem m => exact takeShortSrc_mem m ▸ (takeShortMem_reads m).map

theorem takeShortSrc_spells (v : BitVec 2) : Spells (takeShortSrc v) [] (fun x => x.code = v) ShortSrc.bytes :=
  .ite (fun h => .done h.symm rfl) fun _ => (takeShortMem_spells v).map fun _ hm => ⟨hm, rfl⟩

theorem takeShortDest_mem (m : ShortMem) :
    takeShortDest (ShortDest.mem m).code = pthen (takeShortMem m.code) fun m => pdone (.mem m) := by
  have hcode : ∀ v, v = 1#2 ∨ v = 2#2 ∨ v = 3#2 →
      takeShortDest (1#1 ++ v) = pthen (takeShortMem v) fun m => pdone (.mem m) := by
    rintro v (rfl | rfl | rfl) <;> rfl
  exact hcode m.code m.code_eq

theorem takeShortDest_reads (x : ShortDest) : Reads (takeShortDest x.code) x.bytes x := by
  cases x with
  | half h => cases h <;> exact .done
  | mem m => exact takeShortDest_mem m ▸ (takeShortMem_reads m).map

theorem takeShortDest_spells (v : BitVec 3) : Spells (takeShortDest v) [] (fun x => x.code = v) ShortDest.bytes :=
  .ite (fun h => .done h.symm rfl) fun _ => .ite (fun h => .done h.symm rfl) fun _ =>
    .ite (fun h => (takeShortMem_spells _).map fun m hm =>
      ⟨by change 1#1 ++ m.code = v; rw [hm, ← h, append_extract (m := 1) (n := 2)], rfl⟩) fun _ => .fail _

theorem takeBitOp_reg (r : Reg16) : takeBitOp (0#1 ++ r.code) = pthen (pdone r) fun r => pthen take8 fun n =>
    if n.extractLsb' 4 4 = 0#4 then pdone (.reg r (n.extractLsb' 0 4)) else pfail .reserved := by
  cases r <;> rfl

theorem takeBitOp_reads (o : BitOp) : Reads (takeBitOp o.code) o.bytes o := by
  cases o with
  | reg r n =>
    rw [show (BitOp.reg r n).code = 0#1 ++ r.code from rfl, takeBitOp_reg]
    intro rest
    change (if (0#4 ++ n).extractLsb' 4 4 = 0#4 then pdone _ else pfail .reserved : Parser BitOp) rest = _
    rw [BitVec.extractLsb'_append_eq_left, BitVec.extractLsb'_append_eq_right]
    rfl
  | ind a => cases a <;> exact .done
  | rel8 a k => cases a <;> exact (take8_reads k).map
  | sb8 k => exact (take8_reads k).map
  | fb8 k => exact (take8_reads k).map
  | rel16 a k => cases a <;> exact (take16_reads k).map
  | sb16 k => exact (take16_reads k).map
  | abs16 k => exact (take16_reads k).map

theorem takeBitOp_spells : ∀ v, Spells (takeBitOp v) [] (fun o => o.code = v) BitOp.bytes :=
  have reg (r : Reg16) : Spells (takeBitOp (0#1 ++ r.code)) [] (fun o => o.code = 0#1 ++ r.code) BitOp.bytes := by
    rw [takeBitOp_reg]
    refine take8_spells.then fun n _ => .ite (fun h => .done rfl ?_) fun _ => .fail _
    change [n] = [0#4 ++ n.extractLsb' 0 4]
    rw [← h, append_extract (m := 4) (n := 4)]
  codes4 (reg .r0) (reg .r1) (reg .r2) (reg .r3) (reg .a0) (reg .a1) (.done rfl rfl) (.done rfl rfl)
    (take8_spells.map fun _ _ => ⟨rfl, rfl⟩) (take8_spells.map fun _ _ => ⟨rfl, rfl⟩)
    (take8_spells.map fun _ _ => ⟨rfl, rfl⟩) (take8_spells.map fun _ _ => ⟨rfl, rfl⟩)
    (take16_spells.map fun _ _ => ⟨rfl, rfl⟩) (take16_spells.map fun _ _ => ⟨rfl, rfl⟩)
    (take16_spells.map fun _ _ => ⟨rfl, rfl⟩) (take16_spells.map fun _ _ => ⟨rfl, rfl⟩)

theorem takeJmpEa_reads (e : JmpEa) : Reads (takeJmpEa e.code) e.bytes e := by
  cases e with
  | ind a => cases a <;> exact .done
  | rel8 a d => cases a <;> exact (take8_reads d).map
  | sb8 d => exact (take8_reads d).map
  | fb8 d => exact (take8_reads d).map
  | rel20 a d => cases a <;> exact (take20_reads d).map
  | sb16 d => exact (take16_reads d).map
  | abs16 d => exact (take16_reads d).map

theorem takeJmpEa_spells : ∀ v, Spells (takeJmpEa v) [] (fun e => e.code = v) JmpEa.bytes :=
  codes4 (.fail _) (.fail _) (.fail _) (.fail _) (.fail _) (.fail _) (.done rfl rfl) (.done rfl rfl)
    (take8_spells.map fun _ _ => ⟨rfl, rfl⟩) (take8_spells.map fun _ _ => ⟨rfl, rfl⟩)
    (take8_spells.map fun _ _ => ⟨rfl, rfl⟩) (take8_spells.map fun _ _ => ⟨rfl, rfl⟩)
    (take20_spells.map fun _ _ => ⟨rfl, rfl⟩) (take20_spells.map fun _ _ => ⟨rfl, rfl⟩)
    (take16_spells.map fun _ _ => ⟨rfl, rfl⟩) (take16_spells.map fun _ _ => ⟨rfl, rfl⟩)

theorem JmpEa.code_ge (e : JmpEa) : ¬ e.code.toNat < 6 := by
  cases e with
  | ind a | rel8 a | rel20 a => cases a <;> simp [JmpEa.code, AReg.bit]
  | _ => simp [JmpEa.code]

theorem takeJmpW_reads (x : JmpW) : Reads (takeJmpW x.code) x.bytes x := by
  cases x with
  | reg r => cases r <;> exact .done
  | mem e =>
    rw [show (JmpW.mem e).code = e.code from rfl, takeJmpW, if_neg e.code_ge]
    exact (takeJmpEa_reads e).map

theorem reg16_code {v : BitVec 4} (h : v.toNat < 6) {r : Reg16} (hr : reg16Of (v.extractLsb' 0 3) = some r) :
    0#1 ++ r.code = v := by
  rw [reg16Of_eq_some.mp hr]
  clear hr
  revert v
  decide

theorem takeJmpW_spells (v : BitVec 4) : Spells (takeJmpW v) [] (fun x => x.code = v) JmpW.bytes :=
  .ite (fun h => .need fun _ hr => .done (reg16_code h hr) rfl)
    fun _ => (takeJmpEa_spells v).map fun _ he => ⟨he, rfl⟩

theorem takeJmpA_reads (x : JmpA) : Reads (takeJmpA x.code) x.bytes x := by
  cases x with
  | pair p => cases p <;> exact .done
  | mem e =>
    rw [show (JmpA.mem e).code = e.code from rfl, takeJmpA, if_neg e.code_ge]
    exact (takeJmpEa_reads e).map

theorem takeJmpA_spells (v : BitVec 4) : Spells (takeJmpA v) [] (fun x => x.code = v) JmpA.bytes :=
  .ite (fun _ => .need fun _ hp => .done (pairOf_eq_some.mp hp) rfl)
    fun _ => (takeJmpEa_spells v).map fun _ he => ⟨he, rfl⟩

theorem takePcDest_rel : ∀ v, takePcDest (1#1 ++ v) = pthen (takeEaRel v) fun e => pdone (.mem e) :=
  codes3 rfl rfl rfl rfl rfl rfl rfl rfl

theorem takePcDest_reads (x : PcDest) : Reads (takePcDest x.code) x.bytes x := by
  cases x with
  | pair p => cases p <;> exact .done
  | mem e =>
    cases h : e.isInd with
    | true =>
      obtain ⟨a, rfl⟩ := Ea.eq_ind_of_isInd h
      cases a <;> exact .done
    | false =>
      rw [show (PcDest.mem e).code = 1#1 ++ e.relCode from Ea.code_of_not_isInd h, takePcDest_rel]
      exact (takeEaRel_reads h).map

theorem takePcDest_spells (v : BitVec 4) : Spells (takePcDest v) [] (fun x => x.code = v) PcDest.bytes :=
  .ite (fun _ => .need fun _ hp => .done (pairOf_eq_some.mp hp) rfl) fun hv =>
    .ite (fun h => (takeEaRel_spells _).map fun e ⟨he, hcode⟩ => ⟨by
        change e.code = v
        rw [Ea.code_of_not_isInd he, hcode, ← h, append_extract (m := 1) (n := 3)], rfl⟩)
      fun h => .done (by revert hv h; revert v; decide) rfl

/-! First and second opcode bytes (R160). -/

/-- What follows a first byte: the row of R160 and the place in it. -/
def takeFirst (top : BitVec 5) (low : BitVec 3) : Parser Instr :=
  if top.extractLsb' 3 2 = 0#2 then takeRow0 top low
  else if top.extractLsb' 3 2 = 1#2 then takeRow1 top low
  else if top.extractLsb' 3 2 = 2#2 then takeRow2 top low
  else takeRow3 top low

theorem decodeRaw_cons (top : BitVec 5) (low : BitVec 3) (bs : List Byte) :
    decodeRaw (byte53 top low :: bs) = takeFirst top low bs := by
  have hrow : ∀ top low, (byte53 top low).extractLsb' 6 2 = top.extractLsb' 3 2 := by decide
  have htop : (byte53 top low).extractLsb' 3 5 = top := BitVec.extractLsb'_append_eq_left
  have hlow : (byte53 top low).extractLsb' 0 3 = low := BitVec.extractLsb'_append_eq_right
  change (if _ then _ else if _ then _ else if _ then _ else _ : Parser Instr) bs = _
  rw [hrow, htop, hlow]
  rfl

theorem takeSecond_cons (f : BitVec 4 → BitVec 4 → Parser Instr) (hi lo : BitVec 4) (bs : List Byte) :
    takeSecond f (byte44 hi lo :: bs) = f hi lo bs := by
  change f ((byte44 hi lo).extractLsb' 4 4) ((byte44 hi lo).extractLsb' 0 4) bs = _
  rw [byte44, BitVec.extractLsb'_append_eq_left, BitVec.extractLsb'_append_eq_right]

section
variable {bs : List Byte} {i : Instr}

theorem Reads.first {top : BitVec 5} {low : BitVec 3} (h : Reads (takeFirst top low) bs i) :
    Reads decodeRaw (byte53 top low :: bs) i := fun rest => (decodeRaw_cons top low (bs ++ rest)).trans (h rest)

/-- The same where the lowest bit of the first byte is the size of an immediate. -/
theorem Reads.firstSized {top : BitVec 5} {group : BitVec 2} {z : Size}
    (hb : z = .b → Reads (takeFirst top (group ++ 0#1)) bs i)
    (hw : z = .w → Reads (takeFirst top (group ++ 1#1)) bs i) :
    Reads decodeRaw (byte53 top (group ++ z.bit) :: bs) i := by
  cases z
  · exact (hb rfl).first
  · exact (hw rfl).first

theorem Reads.second {f : BitVec 4 → BitVec 4 → Parser Instr} {hi lo : BitVec 4} (h : Reads (f hi lo) bs i) :
    Reads (takeSecond f) (byte44 hi lo :: bs) i := fun rest => (takeSecond_cons f hi lo (bs ++ rest)).trans (h rest)

end

/-! The shapes several rows share, read from their encoding. -/

theorem srcDest_reads (z : Size) (k : Size → Operand → Operand → Instr) (src dst : Operand) :
    Reads (takeSrcDest z k) (byte44 src.code dst.code :: src.bytes ++ dst.bytes) (k z src dst) :=
  .second (f := fun hi lo => pthen (takeOperand hi) fun s => pthen (takeOperand lo) fun d => pdone (k z s d))
    ((takeOperand_reads src).then (takeOperand_reads dst).map)

theorem quick_reads (z : Size) (k : Size → BitVec 4 → Operand → Instr) (v : BitVec 4) (dst : Operand) :
    Reads (takeQuick z k) (byte44 v dst.code :: dst.bytes) (k z v dst) :=
  .second (f := fun hi lo => pthen (takeOperand lo) fun d => pdone (k z hi d)) (takeOperand_reads dst).map

theorem immDest_reads (k : Imm → Operand → Instr) {v : Imm} {z : Size} (h : v.size = z) (dst : Operand) :
    Reads (takeImmDest z dst.code k) (dst.bytes ++ v.bytes) (k v dst) :=
  (takeOperand_reads dst).then (takeImm_reads h).map

theorem short2_reads (k : Half → ShortSrc → Instr) (h : Half) (src : ShortSrc) :
    Reads (takeShort2 (h.bit ++ src.code) k) src.bytes (k h src) := by
  rw [takeShort2, BitVec.extractLsb'_append_eq_left, BitVec.extractLsb'_append_eq_right, halfOf_bit]
  exact (takeShortSrc_reads src).map

theorem shortImm_reads (k : BitVec 8 → ShortDest → Instr) (v : BitVec 8) (dst : ShortDest) :
    Reads (takeShortImm dst.code k) (v :: dst.bytes) (k v dst) :=
  (take8_reads v).then (takeShortDest_reads dst).map

theorem ShortDest.code_eq (x : ShortDest) :
    x.code = 3#3 ∨ x.code = 4#3 ∨ x.code = 5#3 ∨ x.code = 6#3 ∨ x.code = 7#3 := by
  cases x with
  | half h => cases h <;> decide
  | mem m => cases m <;> simp [ShortDest.code, ShortMem.code]

/-- A first byte of a row of short destinations. -/
theorem Reads.firstShort {top : BitVec 5} {dst : ShortDest} {bs : List Byte} {i : Instr} (p : BitVec 3 → Parser Instr)
    (hrow : takeFirst top 3#3 = p 3#3 ∧ takeFirst top 4#3 = p 4#3 ∧ takeFirst top 5#3 = p 5#3 ∧
      takeFirst top 6#3 = p 6#3 ∧ takeFirst top 7#3 = p 7#3) (h : Reads (p dst.code) bs i) :
    Reads decodeRaw (byte53 top dst.code :: bs) i := by
  obtain ⟨h3, h4, h5, h6, h7⟩ := hrow
  have hp : takeFirst top dst.code = p dst.code := by
    rcases dst.code_eq with e | e | e | e | e <;> rw [e] <;> assumption
  exact .first (hp ▸ h)

theorem takeFirst_movBSHalfDest (h : Half) (m : ShortMem) : takeFirst 0#5 (h.bit ++ m.code) =
    pthen (takeShortMem m.code) fun m => pdone (.movBSHalfDest h m) := by
  have hcode : ∀ v, v = 1#2 ∨ v = 2#2 ∨ v = 3#2 →
      takeFirst 0#5 (h.bit ++ v) = pthen (takeShortMem v) fun m => pdone (.movBSHalfDest h m) := by
    cases h <;> rintro v (rfl | rfl | rfl) <;> rfl
  exact hcode m.code m.code_eq

theorem takeFirst_movBSSrcAn (a : AReg) (src : ShortSrc) : takeFirst 6#5 (a.bit ++ src.code) =
    pthen (takeShortSrc src.code) fun s => pdone (.movBSSrcAn a s) := by
  change pthen (takeShortSrc ((a.bit ++ src.code).extractLsb' 0 2)) (fun s =>
    pdone (Instr.movBSSrcAn (aregOf ((a.bit ++ src.code).extractLsb' 2 1)) s)) = _
  rw [BitVec.extractLsb'_append_eq_left, BitVec.extractLsb'_append_eq_right, aregOf_bit]

theorem take7A_ldcSrc (c : CReg) (m : BitVec 4) : take7A .b (1#1 ++ c.code) m = takeOp1 m fun o => .ldcSrc o c := by
  cases c <;> rfl

theorem take7A_stcDest (c : CReg) (m : BitVec 4) : take7A .w (1#1 ++ c.code) m = takeOp1 m fun o => .stcDest c o := by
  cases c <;> rfl

theorem take7D_jcnd16 {c : Cond} (h : c.inByteForm = false) :
    take7D 12#4 c.code = pthen take8 fun d => pdone (.jcnd16 c d) := by
  cases c
  case le | o | ge | gt | no | lt => rfl
  all_goals cases h

theorem take7D_pusha : ∀ v, take7D 9#4 (1#1 ++ v) = pthen (takeEaRel v) fun e => pdone (.pusha e) :=
  codes3 rfl rfl rfl rfl rfl rfl rfl rfl

theorem take7D_ldipl : ∀ l, take7D 10#4 (0#1 ++ l) = pdone (.ldipl l) :=
  codes3 rfl rfl rfl rfl rfl rfl rfl rfl

theorem take7D_bmcndC (c : Cond) : take7D 13#4 c.code = pdone (.bmcndC c) := by cases c <;> rfl

theorem takeEB_ldcImm (c : CReg) : takeEB (0#1 ++ c.code) 0#4 = pthen take16 fun v => pdone (.ldcImm v c) := by
  cases c <;> rfl

theorem takeEB_pushc (c : CReg) : takeEB (0#1 ++ c.code) 2#4 = pdone (.pushc c) := by cases c <;> rfl

theorem takeEB_popc (c : CReg) : takeEB (0#1 ++ c.code) 3#4 = pdone (.popc c) := by cases c <;> rfl

theorem takeEB_mova (r : Reg16) :
    ∀ v, takeEB (0#1 ++ r.code) (1#1 ++ v) = pthen (takeEaRel v) fun e => pdone (.mova e r) := by
  cases r <;> exact codes3 rfl rfl rfl rfl rfl rfl rfl rfl

theorem takeEB_int (n : BitVec 6) : takeEB (3#2 ++ n.extractLsb' 4 2) (n.extractLsb' 0 4) = pdone (.int n) := by
  rw [takeEB, BitVec.extractLsb'_append_eq_left, if_pos rfl, BitVec.extractLsb'_append_eq_right,
    append_extract (m := 2) (n := 4)]

theorem condOf_byteForm {c : Cond} (h : c.inByteForm = true) : condOf (0#1 ++ c.code.extractLsb' 0 3) = some c := by
  cases c
  case geu | gtu | eq | n | ltu | leu | ne | pz => rfl
  all_goals cases h

/-- The opcode map reads every well-formed instruction from its encoding. -/
theorem decodeRaw_reads {i : Instr} (hw : i.wellFormed = true) (ha : i.isAlias = false) :
    Reads decodeRaw (encode i) i := by
  cases i
  case brk | nop | rts | into | reit | und => exact .first .done
  case movBSHalfDest h m =>
    exact .first (takeFirst_movBSHalfDest h m ▸ (takeShortMem_reads m).map)
  case movBSSrcHalf h src | andBSSrc h src | orBSSrc h src | addBSSrc h src | subBSSrc h src | cmpBSSrc h src =>
    exact .first (short2_reads _ h src)
  case movBSSrcAn a src => exact .first (takeFirst_movBSSrcAn a src ▸ (takeShortSrc_reads src).map)
  case bclrS n d | bsetS n d | bnotS n d | btstS n d => exact .first (take8_reads d).map
  case jmpS d => exact .first .done
  case jcnd8 c d => exact .first (.need (condOf_byteForm hw) (take8_reads d).map)
  case muluSrc z src dst | movGSrc z src dst | mulSrc z src dst | tstSrc z src dst | xorSrc z src dst |
      andGSrc z src dst | orGSrc z src dst | addGSrc z src dst | subGSrc z src dst | adcSrc z src dst |
      sbbSrc z src dst | cmpGSrc z src dst => cases z <;> exact .first (srcDest_reads _ _ src dst)
  case steAbs20 z src a | steDsp20 z src a =>
    cases z <;> exact .first (.second ((takeOperand_reads src).then (take20_reads a).map))
  case ldeAbs20 z a dst | ldeDsp20 z a dst =>
    cases z <;> exact .first (.second ((takeOperand_reads dst).then (take20_reads a).map))
  case movGToSp z src d => cases z <;> exact .first (.second ((takeOperand_reads src).then (take8_reads d).map))
  case movGFromSp z d dst => cases z <;> exact .first (.second ((takeOperand_reads dst).then (take8_reads d).map))
  case steA1A0 z o | pushG z o | neg z o | rotR1H z o | notG z o | ldeA1A0 z o | popG z o | shlR1H z o | shaR1H z o |
      divxSrc z o | rolc z o | rorc z o | divuSrc z o | divSrc z o | adcf z o | abs z o =>
    cases z <;> exact .first (.second (takeOperand_reads o).map)
  case extsB o => exact .first (.second (takeOperand_reads o).map)
  case movGImm v dst | tstImm v dst | xorImm v dst | andGImm v dst | orGImm v dst | addGImm v dst | subGImm v dst |
      adcImm v dst | sbbImm v dst | cmpGImm v dst | muluImm v dst | mulImm v dst =>
    exact .firstSized (fun h => .second (immDest_reads _ h dst)) fun h => .second (immDest_reads _ h dst)
  case divuImm v | divImm v | pushGImm v | divxImm v | addGSp v =>
    exact .firstSized (fun h => .second (takeImm_reads h).map) fun h => .second (takeImm_reads h).map
  case xchg z src dst => cases z <;> cases src <;> exact .first (.second (takeOperand_reads dst).map)
  case ldcSrc o c => exact .first (.second (f := take7A .b) (take7A_ldcSrc c _ ▸ (takeOperand_reads o).map))
  case stcDest c o => exact .first (.second (f := take7A .w) (take7A_stcDest c _ ▸ (takeOperand_reads o).map))
  case movDirToR0L k o | movDirFromR0L k o => cases k <;> exact .first (.second (takeOperand_reads o).map)
  case jmpiA src | jsriA src => exact .first (.second (takeJmpA_reads src).map)
  case jmpiW src | jsriW src => exact .first (.second (takeJmpW_reads src).map)
  case pusha src =>
    have hsrc : src.isInd = false := by simpa [Instr.wellFormed] using hw
    exact .first (.second (take7D_pusha _ ▸ (takeEaRel_reads hsrc).map))
  case ldipl l => exact .first (.second (take7D_ldipl l ▸ .done))
  case stcPc dst => exact .first (.second (takePcDest_reads dst).map)
  case jcnd16 c d =>
    have hc : c.inByteForm = false := by simpa [Instr.wellFormed] using hw
    exact .first (.second (take7D_jcnd16 hc ▸ (take8_reads d).map))
  case bmcndC c => exact .first (.second (take7D_bmcndC c ▸ .done))
  case addQSp | daddBReg | daddWReg | dsubBReg | dsubWReg | dadcBReg | dadcWReg | dsbbBReg | dsbbWReg | exitd | extsW |
      wait => exact .first (.second .done)
  case smovf z | smovb z | sstr z | rmpa z => cases z <;> exact .first (.second .done)
  case daddBImm v | dsubBImm v | dadcBImm v | dsbbBImm v | enter v => exact .first (.second (take8_reads v).map)
  case daddWImm v | dsubWImm v | dadcWImm v | dsbbWImm v => exact .first (.second (take16_reads v).map)
  case ldctx n t | stctx n t => exact .first (.second ((take16_reads n).then (take20_reads t).map))
  case btstc o | btsts o | bntst o | band o | bnand o | bor o | bnor o | bclrG o | bsetG o | bnotG o | btstG o |
      bxor o | bnxor o => exact .first (.second (takeBitOp_reads o).map)
  case bmcnd o c =>
    exact .first (.second ((takeBitOp_reads o).then ((take8_reads c.byte).then
      (.need (condByteOf_eq_some.mpr rfl) .done))))
  case pushBS h | popBS h => cases h <;> exact .first .done
  case incW a | pushWS a | popWS a | decW a => cases a <;> exact .first .done
  case movWSImmAn v a => cases a <;> exact .first (take16_reads v).map
  case movBSImmAn v a => cases a <;> exact .first (take8_reads v).map
  case addBSImm v dst | subBSImm v dst | andBSImm v dst | orBSImm v dst | movBSImm v dst | stz v dst | stnz v dst |
      cmpBSImm v dst =>
    exact .firstShort (takeShortImm · _) ⟨rfl, rfl, rfl, rfl, rfl⟩ (shortImm_reads _ v dst)
  case incB dst | decB dst | movBZ dst | notBS dst =>
    exact .firstShort (takeShort1 · _) ⟨rfl, rfl, rfl, rfl, rfl⟩ (takeShortDest_reads dst).map
  case stzx v1 v2 dst =>
    exact .firstShort (fun low => pthen take8 fun x => pthen (takeShortDest low) fun d => pthen take8 fun y =>
      pdone (.stzx x y d)) ⟨rfl, rfl, rfl, rfl, rfl⟩
      ((take8_reads v1).then ((takeShortDest_reads dst).then (take8_reads v2).map))
  case addQ z v dst | cmpQ z v dst | movQ z v dst | rotImm z v dst | shlImm z v dst | shaImm z v dst =>
    cases z <;> exact .first (quick_reads _ _ v dst)
  case ldcImm v c => exact .first (.second (takeEB_ldcImm c ▸ (take16_reads v).map))
  case shlLR1H p | shaLR1H p | shlLImm n p | shaLImm n p => cases p <;> exact .first (.second .done)
  case pushc c => exact .first (.second (takeEB_pushc c ▸ .done))
  case popc c => exact .first (.second (takeEB_popc c ▸ .done))
  case fset f | fclr f => cases f <;> exact .first (.second .done)
  case mova src r =>
    have hsrc : src.isInd = false := by simpa [Instr.wellFormed] using hw
    exact .first (.second (takeEB_mova r _ ▸ (takeEaRel_reads hsrc).map))
  case int n => exact .first (.second (takeEB_int n ▸ .done))
  case pushm v | popm v | jmps v | jsrs v | jmpB v => exact .first (take8_reads v).map
  case jmpW d | jsrW d => exact .first (take16_reads d).map
  case jmpA a | jsrA a => exact .first (take20_reads a).map
  case adjnz z v dst d =>
    cases z <;> exact .first (.second (f := fun hi lo => pthen (takeOperand lo) fun o => pthen take8 fun x =>
      pdone (.adjnz _ hi o x)) ((takeOperand_reads dst).then (take8_reads d).map))
  case sbjnz | ldintb => cases ha

theorem decode_reads {i : Instr} (hw : i.wellFormed = true) (ha : i.isAlias = false) : Reads decode (encode i) i := by
  have h := (decodeRaw_reads hw ha).then (f := fun i => if i.wellFormed then pdone i else pfail .reserved) (b := [])
    (y := i) (by rw [if_pos hw]; exact .done)
  rwa [List.append_nil] at h

/-! What the opcode map reads is spelled by the encoder. -/

/-- Whatever the parser reads after these bytes is no second spelling, and its encoding is exactly the bytes read. -/
abbrev SpellsInstr (p : Parser Instr) (read : List Byte) : Prop := Spells p read (fun i => i.isAlias = false) encode

section
variable {α : Type} {p : Parser α} {n : Nat} {codeOf : α → BitVec n} {v : BitVec n} {spell : α → List Byte}
  {read : BitVec n → List Byte}

/-- A field whose code was read before. -/
theorem Spells.codeThen {f : α → Parser Instr} (h : Spells p [] (fun x => codeOf x = v) spell)
    (k : ∀ x, SpellsInstr (f x) (read (codeOf x) ++ spell x)) : SpellsInstr (pthen p f) (read v) :=
  h.then fun x hx => hx ▸ k x

/-- A field whose code was read before, at the end of an instruction. -/
theorem Spells.code {k : α → Instr} (h : Spells p [] (fun x => codeOf x = v) spell)
    (hk : ∀ x, (k x).isAlias = false ∧ read (codeOf x) ++ spell x = encode (k x)) :
    SpellsInstr (pthen p fun x => pdone (k x)) (read v) :=
  h.codeThen fun x => .done (hk x).1 (hk x).2

end

theorem second_spells {f : BitVec 4 → BitVec 4 → Parser Instr} {b : Byte}
    (h : ∀ lo hi, SpellsInstr (f hi lo) [b, byte44 hi lo]) : SpellsInstr (takeSecond f) [b] :=
  take8_spells.then fun m _ => by
    have hm := h (m.extractLsb' 0 4) (m.extractLsb' 4 4)
    rwa [byte44, append_extract (m := 4) (n := 4) m] at hm

theorem srcDest_spells {z : Size} {k : Size → Operand → Operand → Instr} {b : Byte} (h : ∀ s d,
    (k z s d).isAlias = false ∧ b :: byte44 s.code d.code :: s.bytes ++ d.bytes = encode (k z s d)) :
    SpellsInstr (takeSrcDest z k) [b] :=
  second_spells (f := fun hi lo => pthen (takeOperand hi) fun s => pthen (takeOperand lo) fun d => pdone (k z s d))
    fun lo hi => (takeOperand_spells hi).codeThen (read := fun hi => [b, byte44 hi lo]) fun s =>
      (takeOperand_spells lo).code (read := fun lo => [b, byte44 s.code lo] ++ s.bytes) fun d => h s d

theorem quick_spells {z : Size} {k : Size → BitVec 4 → Operand → Instr} {b : Byte} (h : ∀ v d,
    (k z v d).isAlias = false ∧ b :: byte44 v d.code :: d.bytes = encode (k z v d)) : SpellsInstr (takeQuick z k) [b] :=
  second_spells (f := fun hi lo => pthen (takeOperand lo) fun d => pdone (k z hi d))
    fun lo hi => (takeOperand_spells lo).code (read := fun lo => [b, byte44 hi lo]) fun d => h hi d

theorem short2_spells {low : BitVec 3} {k : Half → ShortSrc → Instr} {top : BitVec 5} (h : ∀ x src,
    (k x src).isAlias = false ∧ byte53 top (x.bit ++ src.code) :: src.bytes = encode (k x src)) :
    SpellsInstr (takeShort2 low k) [byte53 top low] :=
  (takeShortSrc_spells _).map fun src hsrc => by
    obtain ⟨halias, henc⟩ := h (halfOf (low.extractLsb' 2 1)) src
    rw [bit_halfOf, hsrc, append_extract (m := 1) (n := 2)] at henc
    exact ⟨halias, henc⟩

theorem shortImm_spells {low : BitVec 3} {k : BitVec 8 → ShortDest → Instr} {top : BitVec 5} (h : ∀ v d,
    (k v d).isAlias = false ∧ byte53 top d.code :: v :: d.bytes = encode (k v d)) :
    SpellsInstr (takeShortImm low k) [byte53 top low] :=
  take8_spells.then fun v _ => (takeShortDest_spells low).code (read := fun low => [byte53 top low] ++ [v]) (h v)

theorem short1_spells {low : BitVec 3} {k : ShortDest → Instr} {top : BitVec 5} (h : ∀ d,
    (k d).isAlias = false ∧ byte53 top d.code :: d.bytes = encode (k d)) :
    SpellsInstr (takeShort1 low k) [byte53 top low] :=
  (takeShortDest_spells low).code (read := fun low => [byte53 top low]) h

/-- One block of eight first bytes. -/
theorem block_spells {low : BitVec 3} {generic : Size → Parser Instr} {single short : Parser Instr} {top : BitVec 5}
    (hgeneric : ∀ z : Size, SpellsInstr (generic z) [byte53 top (0#2 ++ z.bit)])
    (hsingle : SpellsInstr single [byte53 top 2#3])
    (hshort : low ≠ 0#3 → low ≠ 1#3 → low ≠ 2#3 → SpellsInstr short [byte53 top low]) :
    SpellsInstr (takeBlock low generic single short) [byte53 top low] :=
  .ite (by rintro rfl; exact hgeneric .b) fun h0 => .ite (by rintro rfl; exact hgeneric .w) fun h1 =>
    .ite (by rintro rfl; exact hsingle) fun h2 => hshort h0 h1 h2

theorem op1_spells {b : Byte} {op m : BitVec 4} {k : Operand → Instr} (h : ∀ o,
    (k o).isAlias = false ∧ b :: byte44 op o.code :: o.bytes = encode (k o)) :
    SpellsInstr (takeOp1 m k) [b, byte44 op m] :=
  (takeOperand_spells m).code (read := fun m => [b, byte44 op m]) h

theorem op1Then20_spells {b : Byte} {op m : BitVec 4} {k : Operand → Addr → Instr} (h : ∀ o a,
    (k o a).isAlias = false ∧ b :: byte44 op o.code :: o.bytes ++ le20 a = encode (k o a)) :
    SpellsInstr (pthen (takeOperand m) fun o => pthen take20 fun a => pdone (k o a)) [b, byte44 op m] :=
  (takeOperand_spells m).codeThen (read := fun m => [b, byte44 op m]) fun o => take20_spells.map fun a _ => h o a

theorem op1Then8_spells {b : Byte} {op m : BitVec 4} {k : Operand → Byte → Instr} (h : ∀ o d,
    (k o d).isAlias = false ∧ b :: byte44 op o.code :: o.bytes ++ [d] = encode (k o d)) :
    SpellsInstr (pthen (takeOperand m) fun o => pthen take8 fun d => pdone (k o d)) [b, byte44 op m] :=
  (takeOperand_spells m).codeThen (read := fun m => [b, byte44 op m]) fun o => take8_spells.map fun d _ => h o d

theorem immDest_spells {group : BitVec 2} {op : BitVec 4} {z : Size} {m : BitVec 4} {top : BitVec 5}
    {k : Imm → Operand → Instr} (h : ∀ v d, (k v d).isAlias = false ∧
      byte53 top (group ++ v.size.bit) :: byte44 op d.code :: d.bytes ++ v.bytes = encode (k v d)) :
    SpellsInstr (takeImmDest z m k) [byte53 top (group ++ z.bit), byte44 op m] :=
  (takeOperand_spells m).codeThen (read := fun m => [byte53 top (group ++ z.bit), byte44 op m]) fun d =>
    (takeImm_spells z).map (by rintro v rfl; exact h v d)

theorem imm1_spells {group : BitVec 2} {z : Size} {top : BitVec 5} {b : Byte} {k : Imm → Instr}
    (h : ∀ v, (k v).isAlias = false ∧ byte53 top (group ++ v.size.bit) :: b :: v.bytes = encode (k v)) :
    SpellsInstr (takeImm1 z k) [byte53 top (group ++ z.bit), b] :=
  (takeImm_spells z).map (by rintro v rfl; exact h v)

/-- The group 74h/75h (R161). -/
theorem take74_spells (z : Size) (m : BitVec 4) :
    ∀ op, SpellsInstr (take74 z op m) [byte53 14#5 (2#2 ++ z.bit), byte44 op m] :=
  codes4 (op1Then20_spells fun _ _ => ⟨rfl, rfl⟩) (op1Then20_spells fun _ _ => ⟨rfl, rfl⟩)
    (op1_spells fun _ => ⟨rfl, rfl⟩) (op1Then8_spells fun _ _ => ⟨rfl, rfl⟩) (op1_spells fun _ => ⟨rfl, rfl⟩)
    (op1_spells fun _ => ⟨rfl, rfl⟩) (op1_spells fun _ => ⟨rfl, rfl⟩) (op1_spells fun _ => ⟨rfl, rfl⟩)
    (op1Then20_spells fun _ _ => ⟨rfl, rfl⟩) (op1Then20_spells fun _ _ => ⟨rfl, rfl⟩)
    (op1_spells fun _ => ⟨rfl, rfl⟩) (op1Then8_spells fun _ _ => ⟨rfl, rfl⟩) (immDest_spells fun _ _ => ⟨rfl, rfl⟩)
    (op1_spells fun _ => ⟨rfl, rfl⟩) (op1_spells fun _ => ⟨rfl, rfl⟩) (op1_spells fun _ => ⟨rfl, rfl⟩)

/-- The group 76h/77h (R162). -/
theorem take76_spells (z : Size) (m : BitVec 4) :
    ∀ op, SpellsInstr (take76 z op m) [byte53 14#5 (3#2 ++ z.bit), byte44 op m] :=
  codes4 (immDest_spells fun _ _ => ⟨rfl, rfl⟩) (immDest_spells fun _ _ => ⟨rfl, rfl⟩)
    (immDest_spells fun _ _ => ⟨rfl, rfl⟩) (immDest_spells fun _ _ => ⟨rfl, rfl⟩)
    (immDest_spells fun _ _ => ⟨rfl, rfl⟩) (immDest_spells fun _ _ => ⟨rfl, rfl⟩)
    (immDest_spells fun _ _ => ⟨rfl, rfl⟩) (immDest_spells fun _ _ => ⟨rfl, rfl⟩)
    (immDest_spells fun _ _ => ⟨rfl, rfl⟩) (op1_spells fun _ => ⟨rfl, rfl⟩) (op1_spells fun _ => ⟨rfl, rfl⟩)
    (op1_spells fun _ => ⟨rfl, rfl⟩) (op1_spells fun _ => ⟨rfl, rfl⟩) (op1_spells fun _ => ⟨rfl, rfl⟩)
    (op1_spells fun _ => ⟨rfl, rfl⟩) (op1_spells fun _ => ⟨rfl, rfl⟩)

theorem takeE_spells (z : Size) {dadd dsub dadc dsbb : Instr} {idadd idsub idadc idsbb : Parser Instr}
    (h4 : SpellsInstr (pdone dadd) [byte53 15#5 (2#2 ++ z.bit), byte44 14#4 4#4])
    (h5 : SpellsInstr (pdone dsub) [byte53 15#5 (2#2 ++ z.bit), byte44 14#4 5#4])
    (h6 : SpellsInstr (pdone dadc) [byte53 15#5 (2#2 ++ z.bit), byte44 14#4 6#4])
    (h7 : SpellsInstr (pdone dsbb) [byte53 15#5 (2#2 ++ z.bit), byte44 14#4 7#4])
    (h12 : SpellsInstr idadd [byte53 15#5 (2#2 ++ z.bit), byte44 14#4 12#4])
    (h13 : SpellsInstr idsub [byte53 15#5 (2#2 ++ z.bit), byte44 14#4 13#4])
    (h14 : SpellsInstr idadc [byte53 15#5 (2#2 ++ z.bit), byte44 14#4 14#4])
    (h15 : SpellsInstr idsbb [byte53 15#5 (2#2 ++ z.bit), byte44 14#4 15#4]) :
    ∀ m, SpellsInstr (takeE z m dadd dsub dadc dsbb idadd idsub idadc idsbb)
      [byte53 15#5 (2#2 ++ z.bit), byte44 14#4 m] :=
  codes4 (imm1_spells fun _ => ⟨rfl, rfl⟩) (imm1_spells fun _ => ⟨rfl, rfl⟩) (imm1_spells fun _ => ⟨rfl, rfl⟩)
    (imm1_spells fun _ => ⟨rfl, rfl⟩) h4 h5 h6 h7 (.done rfl rfl) (.done rfl rfl) (.done rfl rfl)
    (imm1_spells fun _ => ⟨rfl, rfl⟩) h12 h13 h14 h15

/-- A four-bit code with its highest bit known. -/
theorem append_of_extract {v : BitVec 4} {a : BitVec 1} (h : v.extractLsb' 3 1 = a) : a ++ v.extractLsb' 0 3 = v := by
  rw [← h, append_extract (m := 1) (n := 3)]

theorem ctx_spells {b c : Byte} {k : BitVec 16 → BitVec 20 → Instr} (h : ∀ n t,
    (k n t).isAlias = false ∧ b :: c :: le16 n ++ le20 t = encode (k n t)) : SpellsInstr (takeCtx k) [b, c] :=
  take16_spells.then fun n _ => take20_spells.map fun t _ => h n t

/-- The group 7Ch (R163). -/
theorem take7C_spells (m : BitVec 4) : ∀ op, SpellsInstr (take7C op m) [byte53 15#5 4#3, byte44 op m] :=
  codes4 (op1_spells fun _ => ⟨rfl, rfl⟩) (op1_spells fun _ => ⟨rfl, rfl⟩) (op1_spells fun _ => ⟨rfl, rfl⟩)
    (op1_spells fun _ => ⟨rfl, rfl⟩) (immDest_spells (group := 2#2) (z := .b) fun _ _ => ⟨rfl, rfl⟩)
    (immDest_spells (group := 2#2) (z := .b) fun _ _ => ⟨rfl, rfl⟩) (op1_spells fun _ => ⟨rfl, rfl⟩) (.fail _)
    (op1_spells fun _ => ⟨rfl, rfl⟩) (op1_spells fun _ => ⟨rfl, rfl⟩) (op1_spells fun _ => ⟨rfl, rfl⟩)
    (op1_spells fun _ => ⟨rfl, rfl⟩)
    ((takePcDest_spells m).code (read := fun m => [byte53 15#5 4#3, byte44 12#4 m]) fun _ => ⟨rfl, rfl⟩) (.fail _)
    (takeE_spells .b (.done rfl rfl) (.done rfl rfl) (.done rfl rfl) (.done rfl rfl)
      (take8_spells.map fun _ _ => ⟨rfl, rfl⟩) (take8_spells.map fun _ _ => ⟨rfl, rfl⟩)
      (take8_spells.map fun _ _ => ⟨rfl, rfl⟩) (take8_spells.map fun _ _ => ⟨rfl, rfl⟩) m)
    (codes4 (P := fun m => SpellsInstr (take7C 15#4 m) [byte53 15#5 4#3, byte44 15#4 m])
      (ctx_spells fun _ _ => ⟨rfl, rfl⟩) (.done rfl rfl) (take8_spells.map fun _ _ => ⟨rfl, rfl⟩) (.done rfl rfl)
      (.fail _) (.fail _) (.fail _) (.fail _) (.fail _) (.fail _) (.fail _) (.fail _) (.fail _) (.fail _) (.fail _)
      (.fail _) m)

theorem pusha_spells (m : BitVec 4) : SpellsInstr (take7D 9#4 m) [byte53 15#5 5#3, byte44 9#4 m] := by
  change SpellsInstr (if m.extractLsb' 3 1 = 1#1 then
    pthen (takeEaRel (m.extractLsb' 0 3)) fun e => pdone (.pusha e) else pfail .reserved) _
  exact .ite (fun h => (takeEaRel_spells _).map fun e ⟨_, he⟩ => ⟨rfl, by
    rw [encode, he, append_of_extract h]; rfl⟩) fun _ => .fail _

theorem ldipl_spells (m : BitVec 4) : SpellsInstr (take7D 10#4 m) [byte53 15#5 5#3, byte44 10#4 m] := by
  change SpellsInstr (if m.extractLsb' 3 1 = 0#1 then pdone (.ldipl (m.extractLsb' 0 3)) else pfail .unassigned) _
  exact .ite (fun h => .done rfl (by rw [encode, append_of_extract h])) fun _ => .fail _

theorem jcnd16_spells (m : BitVec 4) : SpellsInstr (take7D 12#4 m) [byte53 15#5 5#3, byte44 12#4 m] := by
  change SpellsInstr (pthen (pneed .unassigned (condOf m)) fun c =>
    if c.inByteForm then pfail .unassigned else pthen take8 fun d => pdone (.jcnd16 c d)) _
  exact .need fun c hc => .ite (fun _ => .fail _) fun _ => take8_spells.map fun _ _ =>
    ⟨rfl, by rw [encode, condOf_eq_some.mp hc]; rfl⟩

theorem bmcndC_spells (m : BitVec 4) : SpellsInstr (take7D 13#4 m) [byte53 15#5 5#3, byte44 13#4 m] := by
  change SpellsInstr (pthen (pneed .unassigned (condOf m)) fun c => pdone (.bmcndC c)) _
  exact .need fun c hc => .done rfl (by rw [encode, condOf_eq_some.mp hc])

/-- The group 7Dh (R163). -/
theorem take7D_spells (m : BitVec 4) : ∀ op, SpellsInstr (take7D op m) [byte53 15#5 5#3, byte44 op m] :=
  codes4 ((takeJmpA_spells m).code (read := fun m => [byte53 15#5 5#3, byte44 0#4 m]) fun _ => ⟨rfl, rfl⟩)
    ((takeJmpA_spells m).code (read := fun m => [byte53 15#5 5#3, byte44 1#4 m]) fun _ => ⟨rfl, rfl⟩)
    ((takeJmpW_spells m).code (read := fun m => [byte53 15#5 5#3, byte44 2#4 m]) fun _ => ⟨rfl, rfl⟩)
    ((takeJmpW_spells m).code (read := fun m => [byte53 15#5 5#3, byte44 3#4 m]) fun _ => ⟨rfl, rfl⟩)
    (immDest_spells (group := 2#2) (z := .w) fun _ _ => ⟨rfl, rfl⟩)
    (immDest_spells (group := 2#2) (z := .w) fun _ _ => ⟨rfl, rfl⟩) (.fail _) (.fail _) (.fail _)
    (pusha_spells m) (ldipl_spells m) (.done rfl rfl) (jcnd16_spells m) (bmcndC_spells m)
    (takeE_spells .w (.done rfl rfl) (.done rfl rfl) (.done rfl rfl) (.done rfl rfl)
      (take16_spells.map fun _ _ => ⟨rfl, rfl⟩) (take16_spells.map fun _ _ => ⟨rfl, rfl⟩)
      (take16_spells.map fun _ _ => ⟨rfl, rfl⟩) (take16_spells.map fun _ _ => ⟨rfl, rfl⟩) m)
    (codes4 (P := fun m => SpellsInstr (take7D 15#4 m) [byte53 15#5 5#3, byte44 15#4 m])
      (ctx_spells fun _ _ => ⟨rfl, rfl⟩) (.done rfl rfl) (.done rfl rfl) (.done rfl rfl)
      (.fail _) (.fail _) (.fail _) (.fail _) (.fail _) (.fail _) (.fail _) (.fail _) (.fail _) (.fail _) (.fail _)
      (.fail _) m)

theorem bit1_spells {b : Byte} {op m : BitVec 4} {k : BitOp → Instr} (h : ∀ o,
    (k o).isAlias = false ∧ b :: byte44 op o.code :: o.bytes = encode (k o)) :
    SpellsInstr (takeBit1 m k) [b, byte44 op m] := (takeBitOp_spells m).code (read := fun m => [b, byte44 op m]) h

/-- The bit group 7Eh (R164). -/
theorem take7E_spells (m : BitVec 4) : ∀ op, SpellsInstr (take7E op m) [byte53 15#5 6#3, byte44 op m] :=
  codes4 (bit1_spells fun _ => ⟨rfl, rfl⟩) (bit1_spells fun _ => ⟨rfl, rfl⟩)
    ((takeBitOp_spells m).codeThen (read := fun m => [byte53 15#5 6#3, byte44 2#4 m]) fun o =>
      take8_spells.then fun x _ => .need fun c hc => .done rfl (by rw [encode, condByteOf_eq_some.mp hc]; rfl))
    (bit1_spells fun _ => ⟨rfl, rfl⟩) (bit1_spells fun _ => ⟨rfl, rfl⟩) (bit1_spells fun _ => ⟨rfl, rfl⟩)
    (bit1_spells fun _ => ⟨rfl, rfl⟩) (bit1_spells fun _ => ⟨rfl, rfl⟩) (bit1_spells fun _ => ⟨rfl, rfl⟩)
    (bit1_spells fun _ => ⟨rfl, rfl⟩) (bit1_spells fun _ => ⟨rfl, rfl⟩) (bit1_spells fun _ => ⟨rfl, rfl⟩)
    (bit1_spells fun _ => ⟨rfl, rfl⟩) (bit1_spells fun _ => ⟨rfl, rfl⟩) (.fail _) (.fail _)

/-- The group 7Ah/7Bh (R166). -/
theorem take7A_spells (z : Size) (op m : BitVec 4) :
    SpellsInstr (take7A z op m) [byte53 15#5 (1#2 ++ z.bit), byte44 op m] :=
  .ite (fun h => op1_spells fun o => ⟨rfl, by
      rw [encode, code_dregOf, ← h, append_extract (m := 2) (n := 2)]⟩) fun _ =>
    .ite (fun h => .need fun c hc => by
      have hop : op = 1#1 ++ c.code := by rw [cregOf_eq_some.mp hc, append_of_extract h]
      subst hop
      cases z
      · exact op1_spells (k := fun o => .ldcSrc o c) fun _ => ⟨rfl, rfl⟩
      · exact op1_spells (k := fun o => .stcDest c o) fun _ => ⟨rfl, rfl⟩) fun _ => .fail _

/-- A code of the lower half of EBh, as the register code in its low three bits. -/
theorem lowHalf_eq : ∀ op : BitVec 4, op.extractLsb' 2 2 ≠ 3#2 → op.extractLsb' 1 3 ≠ 4#3 → op.extractLsb' 1 3 ≠ 5#3 →
    0#1 ++ op.extractLsb' 0 3 = op := by decide

/-- The group EBh (R165). -/
theorem takeEB_spells (op m : BitVec 4) : SpellsInstr (takeEB op m) [byte53 29#5 3#3, byte44 op m] := by
  have pair {v : BitVec 3} (h : op.extractLsb' 1 3 = v) : v ++ (dpairOf (op.extractLsb' 0 1)).bit = op := by
    rw [bit_dpairOf, ← h, append_extract (m := 3) (n := 1)]
  have pairLow : ∀ op : BitVec 4, 0#1 ++ op.extractLsb' 0 3 = op → ∀ v : BitVec 2, op.extractLsb' 1 2 = v →
      op.extractLsb' 1 3 = 0#1 ++ v := by decide
  refine .ite (fun h => .done rfl ?_) fun h3 => .ite (fun h => .done rfl ?_) fun h4 => .ite (fun h => .done rfl ?_)
    fun h5 => ?_
  · rw [encode, BitVec.extractLsb'_append_eq_left, BitVec.extractLsb'_append_eq_right, ← h,
      append_extract (m := 2) (n := 2)]
  · rw [encode, pair h]
  · rw [encode, pair h]
  have hop := lowHalf_eq op h3 h4 h5
  have creg {c : CReg} (hc : cregOf (op.extractLsb' 0 3) = some c) : 0#1 ++ c.code = op := by
    rw [cregOf_eq_some.mp hc, hop]
  refine .ite (fun h => .need fun r hr => (takeEaRel_spells _).map fun e ⟨_, he⟩ => ⟨rfl, ?_⟩) fun _ => ?_
  · rw [encode, he, append_of_extract h, reg16Of_eq_some.mp hr, hop]
    rfl
  refine .ite ?_ fun _ => .ite ?_ fun _ => .ite ?_ fun _ => .ite ?_ fun _ => .ite ?_ fun _ => .ite ?_ fun _ => .fail _
  · rintro rfl
    exact .need fun c hc => take16_spells.map fun v _ => ⟨rfl, by rw [encode, creg hc]; rfl⟩
  · rintro rfl
    exact .ite (fun h => .done rfl (by rw [encode, pair (v := 0#3) (pairLow op hop _ h)])) fun _ =>
      .ite (fun h => .done rfl (by rw [encode, pair (v := 1#3) (pairLow op hop _ h)])) fun _ => .fail _
  · rintro rfl
    exact .need fun c hc => .done rfl (by rw [encode, creg hc])
  · rintro rfl
    exact .need fun c hc => .done rfl (by rw [encode, creg hc])
  · rintro rfl
    exact .done rfl (by rw [encode, code_flagOf, hop])
  · rintro rfl
    exact .done rfl (by rw [encode, code_flagOf, hop])

/-- The eight values of the five high bits in a quarter of the opcode map. -/
theorem top_eq : ∀ (hi : BitVec 2) (top : BitVec 5), top.extractLsb' 3 2 = hi → top = hi ++ 0#3 ∨ top = hi ++ 1#3 ∨
    top = hi ++ 2#3 ∨ top = hi ++ 3#3 ∨ top = hi ++ 4#3 ∨ top = hi ++ 5#3 ∨ top = hi ++ 6#3 ∨ top = hi ++ 7#3 := by
  decide

/-- First bytes 00h to 3Fh (R160). -/
theorem takeRow0_spells (top : BitVec 5) (low : BitVec 3) (h : top.extractLsb' 3 2 = 0#2) :
    SpellsInstr (takeRow0 top low) [byte53 top low] := by
  refine .ite ?_ fun _ => ?_
  · rintro rfl
    refine .ite (by rintro rfl; exact .done rfl rfl) fun _ => .ite (by rintro rfl; exact .done rfl rfl) fun _ =>
      (takeShortMem_spells _).map fun m hm => ⟨rfl, ?_⟩
    rw [encode, bit_halfOf, hm, append_extract (m := 1) (n := 2)]
    rfl
  iterate 5 refine .ite (by rintro rfl; exact short2_spells fun _ _ => ⟨rfl, rfl⟩) fun _ => ?_
  refine .ite ?_ fun _ => ?_
  · rintro rfl
    refine (takeShortSrc_spells _).map fun src hsrc => ⟨rfl, ?_⟩
    rw [encode, bit_aregOf, hsrc, append_extract (m := 1) (n := 2)]
    rfl
  · obtain rfl : top = 7#5 := by simpa [*] using top_eq _ top h
    exact short2_spells fun _ _ => ⟨rfl, rfl⟩

/-- The two first bytes of a group, as its code and the size bit. -/
theorem sized_spells {top : BitVec 5} {low : BitVec 3} {group : BitVec 2} {f : Size → Parser Instr}
    (h : ∀ z : Size, SpellsInstr (f z) [byte53 top (group ++ z.bit)]) (hlow : low.extractLsb' 1 2 = group) :
    SpellsInstr (f (sizeOf (low.extractLsb' 0 1))) [byte53 top low] := by
  have hz := h (sizeOf (low.extractLsb' 0 1))
  rwa [bit_sizeOf, ← hlow, append_extract (m := 2) (n := 1)] at hz

/-- First bytes 40h to 7Fh (R160). -/
theorem takeRow1_spells (top : BitVec 5) (low : BitVec 3) (h : top.extractLsb' 3 2 = 1#2) :
    SpellsInstr (takeRow1 top low) [byte53 top low] := by
  iterate 4 refine .ite (by rintro rfl; exact take8_spells.map fun _ _ => ⟨rfl, rfl⟩) fun _ => ?_
  refine .ite (by rintro rfl; exact .done rfl rfl) fun _ => .ite ?_ fun _ => .ite ?_ fun _ => ?_
  · rintro rfl
    refine .need fun c hc => take8_spells.map fun _ _ => ⟨rfl, ?_⟩
    rw [encode, condOf_eq_some.mp hc, BitVec.extractLsb'_append_eq_right]
    rfl
  · rintro rfl
    refine .ite ?_ fun h0 => .ite ?_ fun h1 => .ite ?_ fun h2 => ?_
    · exact sized_spells (f := fun z => takeSrcDest z .muluSrc) fun z => srcDest_spells fun _ _ => ⟨rfl, rfl⟩
    · exact sized_spells (f := fun z => takeSrcDest z .movGSrc) fun z => srcDest_spells fun _ _ => ⟨rfl, rfl⟩
    · exact sized_spells (f := fun z => takeSecond (take74 z)) fun z => second_spells (take74_spells z)
    · exact sized_spells (f := fun z => takeSecond (take76 z)) (group := 3#2) (fun z => second_spells (take76_spells z))
        (by revert low; decide)
  · obtain rfl : top = 15#5 := by simpa [*] using top_eq _ top h
    refine .ite ?_ fun h0 => .ite ?_ fun h1 => .ite ?_ fun h2 => .ite ?_ fun h3 => .ite ?_ fun h4 => .fail _
    · exact sized_spells (f := fun z => takeSrcDest z .mulSrc) fun z => srcDest_spells fun _ _ => ⟨rfl, rfl⟩
    · exact sized_spells (f := fun z => takeSecond (take7A z)) fun z => second_spells fun m op => take7A_spells z op m
    · rintro rfl
      exact second_spells take7C_spells
    · rintro rfl
      exact second_spells take7D_spells
    · rintro rfl
      exact second_spells take7E_spells

/-- First bytes 80h to BFh (R160). -/
theorem takeRow2_spells (top : BitVec 5) (low : BitVec 3) (h : top.extractLsb' 3 2 = 2#2) :
    SpellsInstr (takeRow2 top low) [byte53 top low] := by
  iterate 4
    refine .ite ?_ fun _ => ?_
    · rintro rfl
      exact block_spells (fun _ => srcDest_spells fun _ _ => ⟨rfl, rfl⟩) (.done rfl rfl)
        fun _ _ _ => shortImm_spells fun _ _ => ⟨rfl, rfl⟩
  iterate 2
    refine .ite ?_ fun _ => ?_
    · rintro rfl
      exact block_spells (fun _ => srcDest_spells fun _ _ => ⟨rfl, rfl⟩) (take16_spells.map fun _ _ => ⟨rfl, rfl⟩)
        fun _ _ _ => short1_spells fun _ => ⟨rfl, rfl⟩
  refine .ite ?_ fun _ => ?_
  · rintro rfl
    exact block_spells (fun _ => srcDest_spells fun _ _ => ⟨rfl, rfl⟩) (.done rfl rfl)
      fun _ _ _ => short1_spells fun _ => ⟨rfl, rfl⟩
  obtain rfl : top = 23#5 := by simpa [*] using top_eq _ top h
  exact block_spells (fun _ => srcDest_spells fun _ _ => ⟨rfl, rfl⟩) (.done rfl rfl)
    fun _ _ _ => short1_spells fun _ => ⟨rfl, rfl⟩

/-- First bytes C0h to FFh (R160). -/
theorem takeRow3_spells (top : BitVec 5) (low : BitVec 3) (h : top.extractLsb' 3 2 = 3#2) :
    SpellsInstr (takeRow3 top low) [byte53 top low] := by
  refine .ite ?_ fun _ => ?_
  · rintro rfl
    exact block_spells (fun _ => srcDest_spells fun _ _ => ⟨rfl, rfl⟩) (.done rfl rfl)
      fun _ _ _ => shortImm_spells fun _ _ => ⟨rfl, rfl⟩
  iterate 2
    refine .ite ?_ fun _ => ?_
    · rintro rfl
      exact block_spells (fun _ => quick_spells fun _ _ => ⟨rfl, rfl⟩) (.done rfl rfl)
        fun _ _ _ => shortImm_spells fun _ _ => ⟨rfl, rfl⟩
  refine .ite ?_ fun _ => .ite ?_ fun _ => .ite ?_ fun _ => .ite ?_ fun _ => ?_
  · rintro rfl
    exact block_spells (fun _ => quick_spells fun _ _ => ⟨rfl, rfl⟩) (.done rfl rfl) fun _ _ _ =>
      take8_spells.then fun x _ => (takeShortDest_spells low).codeThen (read := fun low => [byte53 27#5 low] ++ [x])
        fun d => take8_spells.map fun _ _ => ⟨rfl, rfl⟩
  · rintro rfl
    exact block_spells (fun _ => quick_spells fun _ _ => ⟨rfl, rfl⟩) (take8_spells.map fun _ _ => ⟨rfl, rfl⟩)
      fun _ _ _ => shortImm_spells fun _ _ => ⟨rfl, rfl⟩
  · rintro rfl
    refine block_spells (fun _ => quick_spells fun _ _ => ⟨rfl, rfl⟩) (take8_spells.map fun _ _ => ⟨rfl, rfl⟩)
      fun _ _ _ => .ite (by rintro rfl; exact second_spells fun m op => takeEB_spells op m) fun _ => ?_
    iterate 3 refine .ite (by rintro rfl; exact take8_spells.map fun _ _ => ⟨rfl, rfl⟩) fun _ => ?_
    obtain rfl : low = 7#3 := by bv_omega
    exact take8_spells.map fun _ _ => ⟨rfl, rfl⟩
  · rintro rfl
    refine block_spells (fun _ => quick_spells fun _ _ => ⟨rfl, rfl⟩) (.done rfl rfl)
      fun _ _ _ => .ite (by rintro rfl; exact .done rfl rfl) fun _ => ?_
    iterate 2 refine .ite (by rintro rfl; exact take16_spells.map fun _ _ => ⟨rfl, rfl⟩) fun _ => ?_
    exact .ite (by rintro rfl; exact .done rfl rfl) fun _ => .fail _
  · obtain rfl : top = 31#5 := by simpa [*] using top_eq _ top h
    refine block_spells (fun z => second_spells (f := fun hi lo => pthen (takeOperand lo) fun d => pthen take8 fun x =>
      pdone (.adjnz z hi d x)) fun lo hi => op1Then8_spells fun _ _ => ⟨rfl, rfl⟩) (.done rfl rfl)
      fun _ _ _ => .ite (by rintro rfl; exact .done rfl rfl) fun _ => ?_
    iterate 2 refine .ite (by rintro rfl; exact take20_spells.map fun _ _ => ⟨rfl, rfl⟩) fun _ => ?_
    refine .ite (by rintro rfl; exact take8_spells.map fun _ _ => ⟨rfl, rfl⟩) fun _ => ?_
    obtain rfl : low = 7#3 := by bv_omega
    exact .done rfl rfl

theorem takeFirst_spells (top : BitVec 5) (low : BitVec 3) : SpellsInstr (takeFirst top low) [byte53 top low] :=
  .ite (takeRow0_spells top low) fun h0 => .ite (takeRow1_spells top low) fun h1 =>
    .ite (takeRow2_spells top low) fun h2 => takeRow3_spells top low (by
      revert top; decide)

theorem decodeRaw_spells : SpellsInstr decodeRaw [] := by
  intro bs i rest h
  cases bs with
  | nil => cases h
  | cons b bs =>
    have hb : byte53 (b.extractLsb' 3 5) (b.extractLsb' 0 3) = b := append_extract (m := 5) (n := 3) b
    rw [← hb, decodeRaw_cons] at h
    have hi := takeFirst_spells _ _ bs i rest h
    rwa [hb] at hi

/-- What the decoder accepts: well-formed instructions other than the two second spellings, from exactly their
encodings (R140, R155, R171). -/
theorem decode_eq_ok {bs rest : List Byte} {i : Instr} :
    decode bs = .ok (i, rest) ↔ i.wellFormed = true ∧ i.isAlias = false ∧ bs = encode i ++ rest := by
  constructor
  · intro h
    obtain ⟨j, mid, hj, hk⟩ := pthen_eq_ok.mp h
    split at hk
    · obtain ⟨⟩ := hk
      exact ⟨‹_›, decodeRaw_spells bs i rest hj⟩
    · cases hk
  · rintro ⟨hw, ha, rfl⟩
    exact decode_reads hw ha rest

/-- Settles O1: every row of the opcode map reads its own encoding. -/
theorem decodeEncode : Obligations.DecodeEncode := fun _ _ hw ha => decode_eq_ok.mpr ⟨hw, ha, rfl⟩

/-- Settles O2: every row of the opcode map yields an instruction whose encoding is what the row has read. -/
theorem decodeSound : Obligations.DecodeSound := fun _ _ _ => decode_eq_ok.mp

end Sys2Proof
end

section
/-! PROOFS. The two second spellings (R192, R193). -/

namespace Sys2Proof.Machine

theorem encode_sbjnz (sz : Size) (v : BitVec 4) (dst : Operand) (d : Byte) :
    encode (.sbjnz sz v dst d) = encode (.adjnz sz v dst d) := rfl

theorem encode_ldintb (v : BitVec 20) : encode (.ldintb v) =
    encode (.ldcImm (0#12 ++ v.extractLsb' 16 4) .intbh) ++ encode (.ldcImm (v.extractLsb' 0 16) .intbl) := rfl

/-- `LDC #IMM16,INTBH` takes the low four bits of its immediate as the high four of INTB, and moves on by its length
(R512). -/
theorem exec_ldcImm_intbh (v : Word) (s : State) : ∃ t, exec (.ldcImm v .intbh) s = .next t ∧
    t.intb = v.extractLsb' 0 4 ++ s.intb.extractLsb' 0 16 ∧ t.pc = s.pc + 4 := ⟨_, rfl, rfl, rfl⟩

/-- `LDC #IMM16,INTBL` sets the low sixteen bits of INTB and moves on by its length (R512). -/
theorem exec_ldcImm_intbl (v : Word) (s : State) : ∃ t, exec (.ldcImm v .intbl) s = .next t ∧
    t.intb = s.intb.extractLsb' 16 4 ++ v ∧ t.pc = s.pc + 4 := ⟨_, rfl, rfl, rfl⟩

theorem exec_ldintb (v : BitVec 20) (s : State) : ∃ t, exec (.ldintb v) s = .next t ∧ t.intb = v ∧ t.pc = s.pc + 8 :=
  ⟨_, rfl, rfl, rfl⟩

/-- Settles O3: the words are those of the core instructions, which O1 reads back, and the two loads put the two parts
of the immediate together. -/
theorem aliasWords : Obligations.AliasWords := by
  refine ⟨fun sz v dst d rest hw => ?_, fun v rest => ?_, fun v s => ?_⟩
  · rw [encode_sbjnz]
    exact decodeEncode (.adjnz sz v dst d) rest hw rfl
  · rw [encode_ldintb, List.append_assoc]
    exact decodeEncode (.ldcImm _ .intbh) _ rfl rfl
  · obtain ⟨t, ht, htintb, htpc⟩ := exec_ldcImm_intbh (0#12 ++ v.extractLsb' 16 4) s
    obtain ⟨u, hu, huintb, hupc⟩ := exec_ldcImm_intbl (v.extractLsb' 0 16) t
    obtain ⟨m, hm, hmintb, hmpc⟩ := exec_ldintb v s
    refine ⟨t, u, m, ht, hu, hm, ?_, hmintb, ?_, hmpc⟩
    · rw [huintb, htintb, BitVec.extractLsb'_append_eq_left, BitVec.extractLsb'_append_eq_right,
        append_extract (m := 4) (n := 16)]
    · rw [hupc, htpc, BitVec.add_assoc]
      rfl

end Sys2Proof.Machine
end

section
/-! PROOFS. The codes the decoder calls unassigned (R159 to R171). -/

namespace Sys2Proof

/-! Parsers that call nothing unassigned. -/

/-- The parser never answers that the code is unassigned. -/
def Assigned {α : Type} (p : Parser α) : Prop := ∀ bs, p bs ≠ .error .unassigned

section
variable {α β : Type}

@[simp] theorem assigned_pdone (x : α) : Assigned (pdone x) := fun _ => nofun

@[simp] theorem assigned_pfail_iff {e : DecodeError} : Assigned (pfail e : Parser α) ↔ e ≠ .unassigned :=
  ⟨fun h he => h [] (congrArg _ he), fun h _ he => h (Except.error.inj he)⟩

theorem pthen_eq_error {p : Parser α} {f : α → Parser β} {bs : List Byte} {e : DecodeError} :
    pthen p f bs = .error e ↔ p bs = .error e ∨ ∃ x rest, p bs = .ok (x, rest) ∧ f x rest = .error e := by
  unfold pthen
  cases h : p bs with
  | error e => simp
  | ok r => obtain ⟨x, mid⟩ := r; simp

@[simp] theorem Assigned.then {p : Parser α} {f : α → Parser β} (hp : Assigned p) (hf : ∀ x, Assigned (f x)) :
    Assigned (pthen p f) := fun bs h => by
  obtain h | ⟨x, rest, -, h⟩ := pthen_eq_error.mp h
  · exact hp bs h
  · exact hf x rest h

@[simp] theorem Assigned.ite {c : Prop} [Decidable c] {p q : Parser α} (hp : Assigned p) (hq : Assigned q) :
    Assigned (if c then p else q) := by
  split <;> assumption

/-- A choice whose condition each branch may use. -/
theorem Assigned.ite_of {c : Prop} [Decidable c] {p q : Parser α} (hp : c → Assigned p) (hq : ¬c → Assigned q) :
    Assigned (if c then p else q) := by
  split
  · exact hp ‹_›
  · exact hq ‹_›

@[simp] theorem assigned_pneed {e : DecodeError} (he : e ≠ .unassigned) (o : Option α) : Assigned (pneed e o) := by
  cases o <;> simp [pneed, he]

end

@[simp] theorem take8_assigned : Assigned take8 := by rintro (_ | ⟨b, bs⟩) <;> nofun
@[simp] theorem take16_assigned : Assigned take16 := by simp [take16]
@[simp] theorem take20_assigned : Assigned take20 :=
  take16_assigned.then fun _ => take8_assigned.then fun _ => by simp
@[simp] theorem takeImm_assigned (z : Size) : Assigned (takeImm z) := by cases z <;> simp [takeImm]
@[simp] theorem takeEaRel_assigned (v : BitVec 3) : Assigned (takeEaRel v) := by
  unfold takeEaRel; repeat' with_reducible apply Assigned.ite
  all_goals simp
@[simp] theorem takeOperand_assigned (v : BitVec 4) : Assigned (takeOperand v) := by
  unfold takeOperand; repeat' with_reducible apply Assigned.ite
  all_goals simp
@[simp] theorem takeShortMem_assigned (v : BitVec 2) : Assigned (takeShortMem v) := by
  unfold takeShortMem; repeat' with_reducible apply Assigned.ite
  all_goals simp
@[simp] theorem takeShortSrc_assigned (v : BitVec 2) : Assigned (takeShortSrc v) := by
  unfold takeShortSrc; repeat' with_reducible apply Assigned.ite
  all_goals simp
@[simp] theorem takeShortDest_assigned (v : BitVec 3) : Assigned (takeShortDest v) := by
  unfold takeShortDest; repeat' with_reducible apply Assigned.ite
  all_goals simp
@[simp] theorem takeBitOp_assigned (v : BitVec 4) : Assigned (takeBitOp v) := by
  have reg : Assigned (pthen (pneed .reserved (reg16Of (v.extractLsb' 0 3))) fun r => pthen take8 fun n =>
      if n.extractLsb' 4 4 = 0#4 then pdone (.reg r (n.extractLsb' 0 4)) else pfail .reserved : Parser BitOp) :=
    .then (by simp) fun _ => take8_assigned.then fun _ => by simp
  unfold takeBitOp; repeat' with_reducible apply Assigned.ite
  all_goals simp [reg]
@[simp] theorem takeJmpEa_assigned (v : BitVec 4) : Assigned (takeJmpEa v) := by
  unfold takeJmpEa; repeat' with_reducible apply Assigned.ite
  all_goals simp
@[simp] theorem takeJmpW_assigned (v : BitVec 4) : Assigned (takeJmpW v) := by
  unfold takeJmpW; repeat' with_reducible apply Assigned.ite
  all_goals simp
@[simp] theorem takeJmpA_assigned (v : BitVec 4) : Assigned (takeJmpA v) := by
  unfold takeJmpA; repeat' with_reducible apply Assigned.ite
  all_goals simp
@[simp] theorem takePcDest_assigned (v : BitVec 4) : Assigned (takePcDest v) := by
  unfold takePcDest; repeat' with_reducible apply Assigned.ite
  all_goals simp

section
variable {α : Type} (z : Size)

@[simp] theorem takeSrcDest_assigned (k) : Assigned (takeSrcDest z k) :=
  take8_assigned.then fun _ => (takeOperand_assigned _).then fun _ => by simp
@[simp] theorem takeQuick_assigned (k) : Assigned (takeQuick z k) := by simp [takeQuick]
@[simp] theorem takeShortImm_assigned (v k) : Assigned (takeShortImm v k) := by simp [takeShortImm]
@[simp] theorem takeShort1_assigned (v k) : Assigned (takeShort1 v k) := by simp [takeShort1]
@[simp] theorem takeShort2_assigned (v k) : Assigned (takeShort2 v k) := by simp [takeShort2]
@[simp] theorem takeOp1_assigned (m k) : Assigned (takeOp1 m k) := by simp [takeOp1]
@[simp] theorem takeImmDest_assigned (m k) : Assigned (takeImmDest z m k) := by simp [takeImmDest]
@[simp] theorem takeImm1_assigned (k) : Assigned (takeImm1 z k) := by simp [takeImm1]
@[simp] theorem takeBit1_assigned (m k) : Assigned (takeBit1 m k) := by simp [takeBit1]
@[simp] theorem takeCtx_assigned (k) : Assigned (takeCtx k) := by simp [takeCtx]
@[simp] theorem take74_assigned (op m : BitVec 4) : Assigned (take74 z op m) := by
  unfold take74; repeat' with_reducible apply Assigned.ite
  all_goals simp
@[simp] theorem take76_assigned (op m : BitVec 4) : Assigned (take76 z op m) := by
  unfold take76; repeat' with_reducible apply Assigned.ite
  all_goals simp

@[simp] theorem takeE_assigned {m : BitVec 4} {i j k l : Instr} {p q r s : Parser Instr} (hp : Assigned p)
    (hq : Assigned q) (hr : Assigned r) (hs : Assigned s) : Assigned (takeE z m i j k l p q r s) := by
  unfold takeE; repeat' with_reducible apply Assigned.ite
  all_goals simp [*]

@[simp] theorem takeSecond_assigned {f : BitVec 4 → BitVec 4 → Parser Instr} (h : ∀ op m, Assigned (f op m)) :
    Assigned (takeSecond f) := by simp [takeSecond, h]

/-- In a block, the short rows are read where the low bits are none of the three codes before them. -/
theorem takeBlock_assigned {low : BitVec 3} {f : Size → Parser Instr} {p q : Parser Instr} (hf : ∀ z, Assigned (f z))
    (hp : Assigned p) (hq : low ≠ 0#3 → low ≠ 1#3 → low ≠ 2#3 → Assigned q) : Assigned (takeBlock low f p q) :=
  .ite_of (fun _ => hf .b) fun h0 => .ite_of (fun _ => hf .w) fun h1 => .ite_of (fun _ => hp) fun h2 => hq h0 h1 h2

end

/-! Parsers that call some codes unassigned. -/

/-- The parser answers that the code is unassigned exactly if the condition holds, whatever bytes follow. -/
def LeavesOpen {α : Type} (p : Parser α) (isOpen : Bool) : Prop := ∀ bs, p bs = .error .unassigned ↔ isOpen = true

section
variable {α β : Type} {p q : Parser α} {a b : Bool}

theorem LeavesOpen.assigned (h : Assigned p) : LeavesOpen p false := fun bs => by simp [h bs]

theorem leavesOpen_pfail : LeavesOpen (pfail .unassigned : Parser α) true := fun _ => by simp [pfail]

theorem LeavesOpen.ite {c : Prop} [Decidable c] (hp : LeavesOpen p a) (hq : LeavesOpen q b) :
    LeavesOpen (if c then p else q) (if c then a else b) := by
  split <;> assumption

/-- A code that stands for nothing is unassigned; the others are as what they stand for. -/
theorem LeavesOpen.need {o : Option α} {f : α → Parser β} {k : α → Bool} (hf : ∀ x, LeavesOpen (f x) (k x)) :
    LeavesOpen (pthen (pneed .unassigned o) f) (o.elim true k) := by
  cases o with
  | none => exact fun _ => by simp [pthen, pneed, pfail]
  | some x => exact hf x

theorem LeavesOpen.needAssigned {o : Option α} {f : α → Parser β} (hf : ∀ x, Assigned (f x)) :
    LeavesOpen (pthen (pneed .unassigned o) f) o.isNone := by
  have h := LeavesOpen.need (o := o) fun x => LeavesOpen.assigned (hf x)
  rwa [show o.elim true (fun _ => false) = o.isNone by cases o <;> rfl] at h

end

theorem LeavesOpen.congr {α : Type} {p : Parser α} {a b : Bool} (h : LeavesOpen p a) (hab : a = b) : LeavesOpen p b :=
  hab ▸ h

open Machine (unassignedCode)

theorem take7A_leavesOpen (z : Size) (op m : BitVec 4) :
    LeavesOpen (take7A z op m) (unassignedCode (byte53 15#5 (1#2 ++ z.bit)) (byte44 op m)) := by
  have creg (c : CReg) : Assigned (pthen (takeOperand m) fun o =>
      match z with
      | .b => pdone (.ldcSrc o c)
      | .w => pdone (.stcDest c o) : Parser Instr) := (takeOperand_assigned m).then fun o => by cases z <;> simp
  have hcode : ∀ (z : Size) (op m : BitVec 4), (if op.extractLsb' 2 2 = 0#2 then false else
      if op.extractLsb' 3 1 = 1#1 then (cregOf (op.extractLsb' 0 3)).isNone else true) =
      unassignedCode (byte53 15#5 (1#2 ++ z.bit)) (byte44 op m) := by
    intro z; cases z <;> decide
  exact .congr (.ite (.assigned (by simp)) <| .ite (.needAssigned creg) leavesOpen_pfail) (hcode z op m)

theorem take7C_leavesOpen (op m : BitVec 4) : LeavesOpen (take7C op m) (unassignedCode 0x7C (byte44 op m)) :=
  .congr
    (.ite (.assigned (by simp)) <| .ite (.assigned (by simp)) <| .ite (.assigned (by simp)) <|
      .ite (.assigned (by simp)) <| .ite (.assigned (by simp)) <| .ite (.assigned (by simp)) <|
      .ite (.assigned (by simp)) <|
      .ite (.ite (.assigned (by simp)) <| .ite (.assigned (by simp)) <| .ite (.assigned (by simp)) <|
        .ite (.assigned (by simp)) leavesOpen_pfail)
      leavesOpen_pfail)
    (by revert op m; decide)

theorem take7D_leavesOpen (op m : BitVec 4) : LeavesOpen (take7D op m) (unassignedCode 0x7D (byte44 op m)) :=
  .congr
    (.ite (.assigned (by simp)) <| .ite (.assigned (by simp)) <| .ite (.assigned (by simp)) <|
      .ite (.assigned (by simp)) <| .ite (.assigned (by simp)) <| .ite (.assigned (by simp)) <|
      .ite (.ite (.assigned (by simp)) (.assigned (by simp))) <|
      .ite (.ite (.assigned (by simp)) leavesOpen_pfail) <| .ite (.assigned (by simp)) <|
      .ite (.need fun c => .ite leavesOpen_pfail (.assigned (by simp))) <|
      .ite (.needAssigned fun c => by simp) <| .ite (.assigned (by simp)) <|
      .ite (.ite (.assigned (by simp)) <| .ite (.assigned (by simp)) <| .ite (.assigned (by simp)) <|
        .ite (.assigned (by simp)) leavesOpen_pfail)
      leavesOpen_pfail)
    (by revert op m; decide)

theorem take7E_leavesOpen (op m : BitVec 4) : LeavesOpen (take7E op m) (unassignedCode 0x7E (byte44 op m)) := by
  have bmcnd : Assigned (pthen (takeBitOp m) fun d => pthen take8 fun x =>
      pthen (pneed .reserved (condByteOf x)) fun c => pdone (.bmcnd d c) : Parser Instr) :=
    (takeBitOp_assigned m).then fun d => take8_assigned.then fun x => by simp
  refine .congr
    (.ite (.assigned (by simp)) <| .ite (.assigned (by simp)) <| .ite (.assigned bmcnd) <|
      .ite (.assigned (by simp)) <| .ite (.assigned (by simp)) <| .ite (.assigned (by simp)) <|
      .ite (.assigned (by simp)) <| .ite (.assigned (by simp)) <| .ite (.assigned (by simp)) <|
      .ite (.assigned (by simp)) <| .ite (.assigned (by simp)) <| .ite (.assigned (by simp)) <|
      .ite (.assigned (by simp)) <| .ite (.assigned (by simp)) leavesOpen_pfail) ?_
  clear bmcnd
  revert op m
  decide

theorem takeEB_leavesOpen (op m : BitVec 4) : LeavesOpen (takeEB op m) (unassignedCode 0xEB (byte44 op m)) :=
  .congr
    (.ite (.assigned (by simp)) <| .ite (.assigned (by simp)) <| .ite (.assigned (by simp)) <|
      .ite (.needAssigned fun r => by simp) <| .ite (.needAssigned fun c => by simp) <|
      .ite (.ite (.assigned (by simp)) <| .ite (.assigned (by simp)) leavesOpen_pfail) <|
      .ite (.needAssigned fun c => by simp) <| .ite (.needAssigned fun c => by simp) <|
      .ite (.assigned (by simp)) <| .ite (.assigned (by simp)) leavesOpen_pfail)
    (by revert op m; decide)

/-! The rows of the opcode map. -/

theorem takeRow0_assigned (top : BitVec 5) (low : BitVec 3) : Assigned (takeRow0 top low) := by
  unfold takeRow0; repeat' with_reducible apply Assigned.ite
  all_goals simp

theorem takeRow2_assigned (top : BitVec 5) (low : BitVec 3) : Assigned (takeRow2 top low) := by
  unfold takeRow2; repeat' with_reducible apply Assigned.ite
  all_goals exact takeBlock_assigned (by simp) (by simp) (by simp)

/-- The first bytes with which some code is left open (R160). -/
def opensGroup (b : Byte) : Bool :=
  b = 0x7A || b = 0x7B || b = 0x7C || b = 0x7D || b = 0x7E || b = 0x7F || b = 0xEB || b = 0xF7

theorem unassignedCode_of_not_opensGroup {b c : Byte} (h : opensGroup b = false) : unassignedCode b c = false := by
  have hb (n : Nat) (hn : n < 256) (ho : opensGroup (BitVec.ofNat 8 n) = true) : b.toNat ≠ n := by
    rintro rfl
    simp [h] at ho
  unfold unassignedCode
  split
  case h_9 => rfl
  all_goals
    rename_i hn
    exact absurd hn (hb _ (by decide) (by decide))

theorem takeRow1_assigned {top : BitVec 5} {low : BitVec 3} (hrow : top.extractLsb' 3 2 = 1#2)
    (h : opensGroup (byte53 top low) = false) : Assigned (takeRow1 top low) := by
  have hjcnd : ∀ low : BitVec 3, (condOf (0#1 ++ low)).isSome = true := by decide
  have hgroup : ∀ low : BitVec 3, low.extractLsb' 1 2 ≠ 0#2 → opensGroup (byte53 15#5 low) = true := by decide
  iterate 5 refine .ite_of (fun _ => by simp) fun _ => ?_
  refine .ite_of (fun _ => ?_) fun _ => .ite_of (fun _ => ?_) fun _ => .ite_of (fun _ => by simp) fun hlow => ?_
  · obtain ⟨c, hc⟩ := Option.isSome_iff_exists.mp (hjcnd low)
    rw [hc]
    exact (assigned_pdone c).then fun c => by simp
  · exact .ite (by simp) <| .ite (by simp) <| .ite (by simp) (by simp)
  · obtain rfl : top = 15#5 := by simpa [*] using top_eq _ top hrow
    rw [hgroup low hlow] at h
    cases h

theorem takeRow3_assigned {top : BitVec 5} {low : BitVec 3} (hrow : top.extractLsb' 3 2 = 3#2)
    (h : opensGroup (byte53 top low) = false) : Assigned (takeRow3 top low) := by
  iterate 3 refine .ite_of (fun _ => takeBlock_assigned (by simp) (by simp) (by simp)) fun _ => ?_
  refine .ite_of (fun _ => takeBlock_assigned (by simp) (by simp) fun _ _ _ => ?_) fun _ => ?_
  · exact take8_assigned.then fun x => (takeShortDest_assigned low).then fun d => by simp
  refine .ite_of (fun _ => takeBlock_assigned (by simp) (by simp) (by simp)) fun _ => ?_
  refine .ite_of ?_ fun _ => .ite_of ?_ fun _ => takeBlock_assigned (fun z => ?_) (by simp) fun _ _ _ => ?_
  · rintro rfl
    refine takeBlock_assigned (by simp) (by simp) fun _ _ _ => .ite_of ?_ fun _ => ?_
    · rintro rfl
      cases h
    · exact .ite (by simp) <| .ite (by simp) <| .ite (by simp) (by simp)
  · rintro rfl
    refine takeBlock_assigned (by simp) (by simp) fun _ _ _ => ?_
    iterate 4 refine .ite_of (fun _ => by simp) fun _ => ?_
    obtain rfl : low = 7#3 := by bv_omega
    cases h
  · exact take8_assigned.then fun m => (takeOperand_assigned _).then fun d => by simp
  · exact .ite (by simp) <| .ite (by simp) <| .ite (by simp) <| .ite (by simp) (by simp)

theorem takeFirst_assigned {top : BitVec 5} {low : BitVec 3} (h : opensGroup (byte53 top low) = false) :
    Assigned (takeFirst top low) := by
  unfold takeFirst
  split_ifs with h0 h1 h2
  · exact takeRow0_assigned _ _
  · exact takeRow1_assigned h1 h
  · exact takeRow2_assigned _ _
  · exact takeRow3_assigned (by bv_omega) h

/-- What the decoder calls unassigned is decided by the first byte, or by the first two (R170). -/
theorem decodeRaw_eq_unassigned_iff (b c : Byte) (rest : List Byte) :
    decodeRaw (b :: c :: rest) = .error .unassigned ↔ unassignedCode b c = true := by
  have group {top : BitVec 5} {low : BitVec 3} {f : BitVec 4 → BitVec 4 → Parser Instr}
      (hrow : takeFirst top low = takeSecond f) (hf : ∀ op m, LeavesOpen (f op m) (unassignedCode (byte53 top low)
        (byte44 op m))) :
      decodeRaw (byte53 top low :: c :: rest) = .error .unassigned ↔ unassignedCode (byte53 top low) c = true := by
    have hc : byte44 (c.extractLsb' 4 4) (c.extractLsb' 0 4) = c := append_extract (m := 4) (n := 4) c
    rw [decodeRaw_cons, hrow, ← hc, takeSecond_cons]
    exact hf _ _ rest
  cases hb : opensGroup b with
  | false =>
    have hb' : byte53 (b.extractLsb' 3 5) (b.extractLsb' 0 3) = b := append_extract (m := 5) (n := 3) b
    rw [unassignedCode_of_not_opensGroup hb, ← hb', decodeRaw_cons]
    simpa using takeFirst_assigned (by rwa [hb']) (c :: rest)
  | true =>
    simp only [opensGroup, Bool.or_eq_true, decide_eq_true_eq] at hb
    obtain ((((((rfl | rfl) | rfl) | rfl) | rfl) | rfl) | rfl) | rfl := hb
    · exact group (top := 15#5) (low := 2#3) rfl (take7A_leavesOpen .b)
    · exact group (top := 15#5) (low := 3#3) rfl (take7A_leavesOpen .w)
    · exact group (top := 15#5) (low := 4#3) rfl take7C_leavesOpen
    · exact group (top := 15#5) (low := 5#3) rfl take7D_leavesOpen
    · exact group (top := 15#5) (low := 6#3) rfl take7E_leavesOpen
    · exact iff_of_true rfl rfl
    · exact group (top := 29#5) (low := 3#3) rfl takeEB_leavesOpen
    · exact iff_of_true rfl rfl

/-- An instruction that is not well-formed is reserved, not unassigned (R171). -/
theorem decode_eq_unassigned_iff {bs : List Byte} :
    decode bs = .error .unassigned ↔ decodeRaw bs = .error .unassigned := by
  have hwf (i : Instr) : Assigned (if i.wellFormed then pdone i else pfail .reserved) := by simp
  rw [decode, pthen_eq_error, or_iff_left]
  rintro ⟨i, rest, -, h⟩
  exact hwf i rest h

end Sys2Proof
end

section
/-! PROOFS. The step that fetches no instruction (D19). -/

namespace Sys2Proof.Machine

theorem passed_resume (s : State) : s.passed.resume = s.resume := by
  unfold State.passed
  split <;> rfl

theorem runInstruction_of_error {s : State} {e : DecodeError} (hr : s.resume = none)
    (hd : decode (fetch s).1 = .error e) : runInstruction s = .refused (refusalOf e) := by
  simp [runInstruction, hr, hd]

/-- Bytes that are no instruction are refused, for the decoder's reason (D19). -/
theorem step_of_undecoded {s : State} {e : DecodeError} (h : s.ready) (hd : decode s.code = .error e) :
    step s = .refused (refusalOf e) := by
  obtain ⟨-, -, hres, -⟩ := id h
  rw [step_eq_runInstruction h]
  exact runInstruction_of_error ((passed_resume s).trans hres) hd

/-- Settles O4: only in eight groups of the opcode map is a code left open, and there by its second byte. -/
theorem unassignedRefused : Obligations.UnassignedRefused := by
  have hopen (b c : Byte) (rest : List Byte) :
      decode (b :: c :: rest) = .error .unassigned ↔ unassignedCode b c = true :=
    decode_eq_unassigned_iff.trans (decodeRaw_eq_unassigned_iff b c rest)
  refine ⟨hopen, fun s b c rest hs hcode hu => ?_, fun s b c rest e hs hcode he hu => ?_⟩
  · exact step_of_undecoded hs (hcode ▸ (hopen b c rest).mpr hu)
  · rw [step_of_undecoded hs he]
    have hne : e ≠ .unassigned := by
      rintro rfl
      rw [hcode, hopen, hu] at he
      cases he
    cases e with
    | unassigned => exact absurd rfl hne
    | reserved | truncated => rfl

end Sys2Proof.Machine
end

section
/-! PROOFS. Shifts and rotates by an immediate count, and through C (R302 to R310). -/

namespace Sys2Proof.Machine

/-! One position, with the bit that comes in. -/

section
variable {w : Nat} (d : BitVec w) (b : Bool)

theorem getLsbD_ofNat_toNat (hw : 0 < w) (i : Nat) : (BitVec.ofNat w b.toNat).getLsbD i = (decide (i = 0) && b) := by
  rw [BitVec.getLsbD_ofNat]
  cases b <;> cases i <;> simp [hw, Nat.testBit_succ]

theorem getLsbD_shiftIn_left (hw : 0 < w) {i : Nat} (hi : i < w) :
    (d <<< 1 ||| BitVec.ofNat w b.toNat).getLsbD i = if i = 0 then b else d.getLsbD (i - 1) := by
  rw [BitVec.getLsbD_or, getLsbD_ofNat_toNat b hw, BitVec.getLsbD_shiftLeft]
  by_cases h : i = 0 <;> simp [h, hi]

theorem getLsbD_shiftIn_right (hw : 0 < w) {i : Nat} (hi : i < w) :
    (d >>> 1 ||| BitVec.ofNat w b.toNat <<< (w - 1)).getLsbD i = if i = w - 1 then b else d.getLsbD (1 + i) := by
  rw [BitVec.getLsbD_or, BitVec.getLsbD_shiftLeft, getLsbD_ofNat_toNat b hw, BitVec.getLsbD_ushiftRight]
  by_cases h : i = w - 1
  · subst h
    simp [Nat.add_sub_cancel' hw, hi]
  · have hlt : i < w - 1 := by omega
    simp [h, hlt]

/-- The bit comes in below the value, whose highest bit leaves (R302). -/
theorem shiftIn_left (hw : 0 < w) : d <<< 1 ||| BitVec.ofNat w b.toNat = (d ++ BitVec.ofBool b).extractLsb' 0 w := by
  refine BitVec.eq_of_getLsbD_eq fun i hi => ?_
  rw [getLsbD_shiftIn_left d b hw hi, BitVec.getLsbD_extractLsb', BitVec.getLsbD_append]
  by_cases h : i = 0
  · simp [h, hw]
  · simp [h, hi]

/-- The bit comes in above the value, whose lowest bit leaves (R303). -/
theorem shiftIn_right (hw : 0 < w) :
    d >>> 1 ||| BitVec.ofNat w b.toNat <<< (w - 1) = (BitVec.ofBool b ++ d).extractLsb' 1 w := by
  refine BitVec.eq_of_getLsbD_eq fun i hi => ?_
  rw [getLsbD_shiftIn_right d b hw hi, BitVec.getLsbD_extractLsb', BitVec.getLsbD_append]
  by_cases h : i = w - 1
  · simp [h, Nat.add_sub_cancel' hw]
    omega
  · have hlt : 1 + i < w := by omega
    simp [h, hlt, hi]

end

/-! Several positions (R300, R304, R306, R310). -/

section
variable (k : ShiftKind) (left : Bool) {w : Nat} (d : BitVec w)

/-- The bits of a value rotated by up to its width. -/
theorem getLsbD_rotateLeft_of_le {n i : Nat} (hn : n ≤ w) (hi : i < w) :
    (d.rotateLeft n).getLsbD i = if i < n then d.getLsbD (w - n + i) else d.getLsbD (i - n) := by
  rw [BitVec.getLsbD_rotateLeft]
  obtain hlt | rfl := hn.lt_or_eq
  · rw [Nat.mod_eq_of_lt hlt]
    by_cases h : i < n <;> simp [h, hi]
  · simp [hi]

theorem getLsbD_rotateRight_of_le {n i : Nat} (hn : n ≤ w) (hi : i < w) :
    (d.rotateRight n).getLsbD i = if i < w - n then d.getLsbD (n + i) else d.getLsbD (i - (w - n)) := by
  rw [BitVec.getLsbD_rotateRight]
  obtain hlt | rfl := hn.lt_or_eq
  · rw [Nat.mod_eq_of_lt hlt]
    by_cases h : i < w - n <;> simp [h, hi]
  · simp [hi]

theorem msb_rotateLeft {n : Nat} (h : n < w) : (d.rotateLeft n).msb = d.getLsbD (w - (n + 1)) := by
  rw [BitVec.msb_eq_getLsbD_last, getLsbD_rotateLeft_of_le d h.le (by omega)]
  split <;> congr 1 <;> omega

theorem getLsbD_zero_rotateRight {n : Nat} (h : n < w) : (d.rotateRight n).getLsbD 0 = d.getLsbD n := by
  rw [getLsbD_rotateRight_of_le d h.le (by omega), if_pos (by omega), Nat.add_zero]

/-- One rotation more. -/
theorem rotateLeft_succ {n : Nat} (h : n < w) :
    d.rotateLeft n <<< 1 ||| BitVec.ofNat w (d.rotateLeft n).msb.toNat = d.rotateLeft (n + 1) := by
  refine BitVec.eq_of_getLsbD_eq fun i hi => ?_
  rw [getLsbD_shiftIn_left _ _ (by omega) hi, msb_rotateLeft d h, getLsbD_rotateLeft_of_le d h.le (by omega),
    getLsbD_rotateLeft_of_le d h hi]
  split_ifs <;> grind

theorem rotateRight_succ {n : Nat} (h : n < w) :
    d.rotateRight n >>> 1 ||| BitVec.ofNat w ((d.rotateRight n).getLsbD 0).toNat <<< (w - 1) =
      d.rotateRight (n + 1) := by
  refine BitVec.eq_of_getLsbD_eq fun i hi => ?_
  rw [getLsbD_shiftIn_right _ _ (by omega) hi, getLsbD_zero_rotateRight d h, getLsbD_rotateRight_of_le d h hi]
  by_cases hlast : i = w - 1
  · rw [if_pos hlast]
    grind
  · rw [if_neg hlast, getLsbD_rotateRight_of_le d h.le (by omega)]
    grind

/-- One arithmetic shift to the right more: the sign comes in again. -/
theorem sshiftRight_succ {n : Nat} (h : n < w) :
    d.sshiftRight n >>> 1 ||| BitVec.ofNat w (d.sshiftRight n).msb.toNat <<< (w - 1) = d.sshiftRight (n + 1) := by
  refine BitVec.eq_of_getLsbD_eq fun i hi => ?_
  rw [getLsbD_shiftIn_right _ _ (by omega) hi, BitVec.msb_sshiftRight, BitVec.getLsbD_sshiftRight,
    BitVec.getLsbD_sshiftRight]
  grind

theorem msb_shiftLeft_eq {n : Nat} (h : n < w) : (d <<< n).msb = d.getLsbD (w - (n + 1)) := by
  rw [BitVec.msb_eq_getLsbD_last, BitVec.getLsbD_shiftLeft]
  have h1 : w - 1 < w := by omega
  have h2 : ¬w - 1 < n := by omega
  simp [h1, h2, show w - 1 - n = w - (n + 1) by omega]

theorem getLsbD_zero_sshiftRight {n : Nat} (h : n < w) : (d.sshiftRight n).getLsbD 0 = d.getLsbD n := by
  rw [BitVec.getLsbD_sshiftRight]
  simp [h, (Nat.zero_lt_of_lt h).ne']

/-- One more position than the closed form has gives the closed form of the next count. -/
theorem shiftStep_shifted {n : Nat} (h : n < w) :
    shiftStep k left (shifted k left n d).1 = shifted k left (n + 1) d := by
  cases k <;> cases left
  case rotate.true => exact Prod.ext (rotateLeft_succ d h) (msb_rotateLeft d h)
  case rotate.false => exact Prod.ext (rotateRight_succ d h) (getLsbD_zero_rotateRight d h)
  case arith.false => exact Prod.ext (sshiftRight_succ d h) (getLsbD_zero_sshiftRight d h)
  case logical.false =>
    exact Prod.ext (BitVec.shiftRight_add d n 1).symm (BitVec.getLsbD_ushiftRight ..)
  all_goals exact Prod.ext (BitVec.shiftLeft_add d n 1).symm (msb_shiftLeft_eq d h)

theorem shifted_zero : (shifted k left 0 d).1 = d := by
  cases k <;> cases left
  case rotate.true =>
    exact BitVec.eq_of_getLsbD_eq fun i hi => by simp [shifted, getLsbD_rotateLeft_of_le d (Nat.zero_le w) hi]
  case rotate.false =>
    exact BitVec.eq_of_getLsbD_eq fun i hi => by simp [shifted, hi]
  all_goals simp [shifted]

/-- The last of several positions comes after the others. -/
theorem shiftBy_succ (n : Nat) (p : BitVec w × Bool) :
    shiftBy k left (n + 1) p = shiftStep k left (shiftBy k left n p).1 := by
  induction n generalizing p with
  | zero => rfl
  | succ n ih => exact ih (shiftStep k left p.1)

theorem shiftBy_value (c : Bool) {n : Nat} (h : n ≤ w) : (shiftBy k left n (d, c)).1 = (shifted k left n d).1 := by
  induction n with
  | zero => exact (shifted_zero k left d).symm
  | succ n ih => rw [shiftBy_succ, ih (Nat.le_of_succ_le h), shiftStep_shifted k left d h]

/-- Up to the width, the positions one by one give the closed form. -/
theorem shiftBy_eq_shifted (c : Bool) {n : Nat} (h0 : 0 < n) (h : n ≤ w) :
    shiftBy k left n (d, c) = shifted k left n d := by
  obtain ⟨n, rfl⟩ := Nat.exists_eq_succ_of_ne_zero h0.ne'
  rw [shiftBy_succ, shiftBy_value k left d c (Nat.le_of_succ_le h), shiftStep_shifted k left d h]

theorem shiftFlags_value (f : Flg) {n : Nat} (h0 : 0 < n) (h : n ≤ w) :
    (shiftFlags k left n w d f).1 = (shifted k left n d).1 :=
  congrArg Prod.fst (shiftBy_eq_shifted k left d f.c h0 h)

theorem shiftFlags_shows (f : Flg) {n : Nat} (h0 : 0 < n) (h : n ≤ w) :
    showsShift k left n d (shiftFlags k left n w d f).2 := by
  rw [showsShift, ← shiftBy_eq_shifted k left d f.c h0 h]
  exact ⟨setSZ_shows _ _, rfl, by rintro rfl; rfl⟩

end

/-- Direction and number of positions of an immediate count (R154). -/
theorem immCount_eq : ∀ n : BitVec 4, immCount n = (decide (n.toNat < 8), n.toNat % 8 + 1) := by decide

section
variable {i : Instr} {z : Size} {l : Loc} {s : State}

/-- An instruction with one operand, whose store can be made, leaves the operation's value and flags. -/
theorem exec_unaryTo {op : UnaryOp} (hexec : exec i s = sequential i (unaryTo op z l) s)
    (h : i.wellFormed = true ∧ ∀ a ∈ locBytes z l, s.writable a = true) : ∃ t, exec i s = .next t ∧
      t.valueAt z l = (op _ (readLoc z l s).1 s.flg).1 ∧ t.flg = (op _ (readLoc z l s).1 s.flg).2 := by
  obtain ⟨u, hu, ht⟩ := exec_completes hexec (unaryTo_acts op z l s) h
  obtain ⟨hvalue, hflg⟩ := unaryTo_result hu
  exact ⟨_, ht, (State.valueAt_advance ..).trans hvalue, hflg⟩

theorem exec_shiftImm {k : ShiftKind} {n : BitVec 4}
    (hexec : exec i s = sequential i (unaryTo (shiftFlags k (immCount n).1 (immCount n).2) z l) s)
    (h : i.wellFormed = true ∧ ∀ a ∈ locBytes z l, s.writable a = true) : ∃ t, exec i s = .next t ∧
      shiftedTo k (decide (n.toNat < 8)) (n.toNat % 8 + 1) z l s t := by
  have hcount : n.toNat % 8 + 1 ≤ Size.bits z := by
    have h8 : 8 ≤ Size.bits z := by cases z <;> decide
    omega
  rw [immCount_eq] at hexec
  obtain ⟨t, ht, hvalue, hflg⟩ := exec_unaryTo hexec h
  refine ⟨t, ht, hvalue.trans (shiftFlags_value _ _ _ _ (Nat.succ_pos _) hcount), ?_⟩
  rw [hflg]
  exact shiftFlags_shows _ _ _ _ (Nat.succ_pos _) hcount

end

theorem exec_rotImm (sz : Size) (n : BitVec 4) (dst : Operand) (s : State) :
    exec (.rotImm sz n dst) s = execRotImm sz n dst s := rfl

theorem exec_shaImm (sz : Size) (n : BitVec 4) (dst : Operand) (s : State) :
    exec (.shaImm sz n dst) s = execShaImm sz n dst s := rfl

theorem exec_shlImm (sz : Size) (n : BitVec 4) (dst : Operand) (s : State) :
    exec (.shlImm sz n dst) s = execShlImm sz n dst s := rfl

theorem Size.bits_pos (z : Size) : 0 < Size.bits z := by cases z <;> decide

theorem exec_rolc {sz : Size} {dst : Operand} {s : State} (h : s.allows (.rolc sz dst)) :
    ∃ t, exec (.rolc sz dst) s = .next t ∧
      t.valueAt sz (s.loc dst) = ((readLoc sz (s.loc dst) s).1 ++ BitVec.ofBool s.flg.c).extractLsb' 0 _ ∧
      t.flg.c = (readLoc sz (s.loc dst) s).1.msb ∧ showsSZ (t.valueAt sz (s.loc dst)) t.flg := by
  obtain ⟨t, ht, hvalue, hflg⟩ := exec_unaryTo (op := unRolc) (z := sz) (l := s.loc dst) rfl h
  refine ⟨t, ht, ?_⟩
  rw [hvalue, hflg]
  exact ⟨shiftIn_left _ _ (Size.bits_pos sz), rfl, setSZ_shows _ _⟩

theorem exec_rorc {sz : Size} {dst : Operand} {s : State} (h : s.allows (.rorc sz dst)) :
    ∃ t, exec (.rorc sz dst) s = .next t ∧
      t.valueAt sz (s.loc dst) = (BitVec.ofBool s.flg.c ++ (readLoc sz (s.loc dst) s).1).extractLsb' 1 _ ∧
      t.flg.c = (readLoc sz (s.loc dst) s).1.getLsbD 0 ∧ showsSZ (t.valueAt sz (s.loc dst)) t.flg := by
  obtain ⟨t, ht, hvalue, hflg⟩ := exec_unaryTo (op := unRorc) (z := sz) (l := s.loc dst) rfl h
  refine ⟨t, ht, ?_⟩
  rw [hvalue, hflg]
  exact ⟨shiftIn_right _ _ (Size.bits_pos sz), rfl, setSZ_shows _ _⟩

/-- Settles O42: the positions one by one are the closed form, and a position through C is a shift of the operand with
C beside it. -/
theorem shiftImmediate : Obligations.ShiftImmediate :=
  ⟨fun sz n dst s h => exec_shiftImm (exec_rotImm sz n dst s) h,
    fun sz n dst s h => exec_shiftImm (exec_shaImm sz n dst s) h,
    fun sz n dst s h => exec_shiftImm (exec_shlImm sz n dst s) h,
    fun _ _ _ h => exec_rolc h, fun _ _ _ h => exec_rorc h⟩

end Sys2Proof.Machine
end

section
/-! PROOFS. What every instruction answers: the next state, or the fault of a byte it cannot store (R75, R171, D12). -/

namespace Sys2Proof.Machine

/-! Operations that store under a condition or after a read. -/

section
variable {l : List Addr} {c : List Part} {s t : State} {r r' : Result}

/-- An effect without a store. -/
theorem Effect.acts (h : Effect [] c s t) : Acts [] s (.next t) := h.keeps.acts

/-- A store that is made only under a condition. -/
theorem Acts.ite {p : Prop} [Decidable p] (h : Acts l s r) (h' : Acts [] s r') :
    Acts (if p then l else []) s (if p then r else r') := by
  split <;> assumption

theorem Acts.ite_not {p : Prop} [Decidable p] (h : Acts l s r) (h' : Acts [] s r') :
    Acts (if p then [] else l) s (if p then r' else r) := by
  split <;> assumption

end

theorem pushLoc_acts (z : Size) (l : Loc) (s : State) :
    Acts (sizeAt z (pushAt z s.sp)) s (pushSized z (readLoc z l s).1 (readLoc z l s).2) := by
  have h := pushSized_acts z (readLoc z l s).1 (readLoc z l s).2
  rw [(readLoc_touches z l s).sp] at h
  exact .after (readLoc_keeps z l s) h

/-- A jump that may be taken or not. -/
theorem jumpIf_acts (c : Bool) (a : Addr) (n : Nat) (s : State) :
    Acts [] s (.next (if c then s.jump a else s.advance n)) := by
  cases c
  · exact (advance_keeps s n).acts
  · exact (jump_keeps s a).acts

/-- A call to a target that is read first. -/
theorem callAfter_acts {s t : State} (h : Keeps [] s t) (hsp : t.sp = s.sp) (a : Addr) (n : Nat) :
    Acts (callBytes s.sp) s (callTo a n t) := by
  rw [← hsp]
  exact .after h (callTo_acts a n t)

theorem stcPc_acts (dst : PcDest) (n : Nat) (s : State) :
    Acts (storedTo (.stcPc dst) s) s
      (match dst with
        | .pair p => .next (s.setPair p ((s.next n).setWidth 32))
        | .mem e => write24 .other (near (s.ea e)) ((s.next n).setWidth 24) s) := by
  cases dst with
  | pair p => exact (setPair_keeps s p _).acts
  | mem e => exact write24_acts .other _ _ s

theorem stctx_acts (num : BitVec 16) (table : BitVec 20) (s : State) :
    Acts (pushedBytes (selected ctxRegs 0 (taskInfo num table s).1).length s.sp) s
      (andThen (storeRegs (selected ctxRegs 0 (taskInfo num table s).1).reverse s.sp (taskInfo num table s).2.2)
        fun u => .next (u.setSp (s.sp - (taskInfo num table s).2.1.setWidth 16))) := by
  rw [← List.length_reverse]
  exact .after (taskInfo_keeps num table s) ((storeRegs_acts _ s.sp _).next fun u => setSp_keeps u _)

theorem brk_acts (s : State) : Acts (pushedBytes 2 s.isp) s
    (intSeq (brkTarget (read32 Config.brkVector s).1 s.intb) (s.next 1) true none (read32 Config.brkVector s).2) := by
  have hread := read32_touches Config.brkVector s
  have h := intSeq_acts (brkTarget (read32 Config.brkVector s).1 s.intb) (s.next 1) true none
    (read32 Config.brkVector s).2
  have hisp : (read32 Config.brkVector s).2.isp = s.isp := by rw [hread.rest]
  rw [← hisp]
  exact .after hread.keeps h

theorem int_acts (n : BitVec 6) (s : State) : Acts (pushedBytes 2 (if n.toNat ≤ 31 then s.isp else s.sp)) s
    (intSeq (s.variableVector n) (s.next 2) (decide (n.toNat ≤ 31)) none s) := by
  have h := intSeq_acts (s.variableVector n) (s.next 2) (decide (n.toNat ≤ 31)) none s
  rw [setFlg_sp_seqFlags] at h
  simpa only [decide_eq_true_eq] using h

/-- The end of the windows of the sources stores nothing. -/
theorem afterPopc_keeps (before s : State) : Keeps [] s (afterPopc before s) := by
  unfold afterPopc
  split
  · exact ⟨fun _ _ => rfl, id, by simp [Function.comp_def], rfl, rfl, rfl, rfl, [], rfl⟩
  · exact .refl s

/-- One iteration of a string instruction: a store at the destination, and then the counters. -/
theorem iteration_acts (z : Size) (v : BitVec (Size.bits z)) (len : Nat) (k : State → Bank) {s t : State}
    (h : Keeps [] s t) : Acts (sizeAt z (near s.bank.a1)) s (andThen (writeMem .other z (near s.bank.a1) v t) fun u =>
      .next (endIteration (u.bank.r3 == 1#16) len (u.setBank (k u)))) :=
  .after h ((writeMem_acts .other z _ v t).next fun u =>
    (setBank_keeps u (k u)).trans (m := []) (endIteration_keeps _ len _))

theorem smovbStep_acts (z : Size) (len : Nat) (s : State) :
    Acts (if s.bank.r3 = 0#16 then [] else sizeAt z (near s.bank.a1)) s (smovbStep z len s) :=
  .ite_not (iteration_acts z _ len _ (readMem_touches z s.stringSrc s).keeps) (advance_keeps s len).acts

theorem smovfStep_acts (z : Size) (len : Nat) (s : State) :
    Acts (if s.bank.r3 = 0#16 then [] else sizeAt z (near s.bank.a1)) s (smovfStep z len s) :=
  .ite_not (iteration_acts z _ len _ (readMem_touches z s.stringSrc s).keeps) (advance_keeps s len).acts

theorem sstrStep_acts (z : Size) (len : Nat) (s : State) :
    Acts (if s.bank.r3 = 0#16 then [] else sizeAt z (near s.bank.a1)) s (sstrStep z len s) :=
  .ite_not (iteration_acts z _ len _ (.refl s)) (advance_keeps s len).acts

/-! Every instruction. -/

section
variable {i : Instr} (h : i.wellFormed = true) (s : State)
include h

/-- The instructions that write `pc` themselves. -/
theorem exec_acts_of_writesPc (hpc : writesPc i = true) : Acts (storedTo i s) s (exec i s) := by
  cases i <;> unfold exec storedTo <;> dsimp only
  case jmpS | jmpB | jmpW | jmpA => exact guarded_acts h (jump_keeps s _).acts
  case jcnd8 c d | jcnd16 c d => exact guarded_acts h (jumpIf_acts _ _ _ s)
  case jmpiA src => exact guarded_acts h ((jmpATarget_effect src s).jump _).acts
  case jmpiW src => exact guarded_acts h ((jmpWTarget_effect src s).jump _).acts
  case jmps n => exact guarded_acts h ((specialTarget_effect n s).jump _).acts
  case jsrW | jsrA => exact guarded_acts h (callTo_acts _ _ s)
  case jsriA src => exact guarded_acts h (callAfter_acts (jmpATarget_effect src s).keeps (jmpATarget_sp src s) _ _)
  case jsriW src => exact guarded_acts h (callAfter_acts (jmpWTarget_effect src s).keeps (jmpWTarget_sp src s) _ _)
  case jsrs n => exact guarded_acts h ((pushRet_acts _ s).next fun t => ((specialTarget_effect n t).jump _).keeps)
  case rts => exact guarded_acts h ((popReturn_effect s).jump _).acts
  case exitd => exact guarded_acts h ((exitd_effect s).jump _).acts
  case adjnz | sbjnz => exact guarded_acts h (addJump_acts _ _ _ _ _ s)
  case brk => exact guarded_acts h (brk_acts s)
  case int n => exact guarded_acts h (int_acts n s)
  case into => exact guarded_acts h (.ite (intSeq_acts _ _ true none s) (advance_keeps s 1).acts)
  case und => exact guarded_acts h (intSeq_acts _ _ true none s)
  case reit => exact guarded_acts h (returnFromInterrupt_acts s)
  case smovf sz => exact guarded_acts h (smovfStep_acts sz 2 s)
  case smovb sz => exact guarded_acts h (smovbStep_acts sz 2 s)
  case sstr sz => exact guarded_acts h (sstrStep_acts sz 2 s)
  case rmpa sz => exact guarded_acts h (rmpaStep_effect sz 2 s).acts
  all_goals cases hpc

/-- The instructions that go on to the next one. -/
theorem exec_acts_of_not_writesPc (hpc : writesPc i = false) : Acts (storedTo i s) s (exec i s) := by
  cases i <;> unfold exec storedTo <;> dsimp only
  case addGImm | addQ | adcImm | subGImm | sbbImm | addBSImm | subBSImm | andGImm | orGImm | xorImm | andBSImm |
      orBSImm => exact sequential_acts h (aluTo_acts _ _ _ _ s)
  case addGSrc | adcSrc | subGSrc | sbbSrc | andGSrc | orGSrc | xorSrc =>
    exact sequential_acts h (withSrc_acts s fun _ t => aluTo_acts _ _ _ _ t)
  case addBSSrc hf src | subBSSrc hf src | andBSSrc hf src | orBSSrc hf src =>
    exact sequential_acts h (withSrc_acts s fun v t => aluTo_acts _ .b v (.data (halfDreg hf)) t)
  case cmpGImm | cmpQ | cmpBSImm | tstImm => exact sequential_acts h (aluTest_acts _ _ _ _ s)
  case cmpGSrc | cmpBSSrc | tstSrc => exact sequential_acts h (withSrc_acts s fun _ t => aluTest_acts _ _ _ _ t)
  case neg | adcf | rolc | rorc | notG | notBS | incB | decB | rotImm | shaImm | shlImm =>
    exact sequential_acts h (unaryTo_acts _ _ _ s)
  case incW a | decW a => exact sequential_acts h (unaryTo_acts _ .w (.addr a) s)
  case abs => exact sequential_acts h (.after (draws_keeps s _) (unaryTo_acts _ _ _ _))
  case rotR1H | shaR1H | shlR1H => exact sequential_acts h (shiftByR1H_acts _ _ _ s)
  case shaLImm n p | shlLImm n p => exact sequential_acts h (shiftLong_effect _ _ p s).acts
  case shaLR1H p | shlLR1H p => exact sequential_acts h (shiftLongByR1H_effect _ p s).acts
  case daddBImm | dadcBImm | daddBReg | dadcBReg | dsubBImm | dsbbBImm | dsubBReg | dsbbBReg =>
    exact sequential_acts h (decByte_effect _ _ _ s).acts
  case daddWImm | dadcWImm | daddWReg | dadcWReg | dsubWImm | dsbbWImm | dsubWReg | dsbbWReg =>
    exact sequential_acts h (decWord_effect _ _ _ s).acts
  case band | bnand | bor | bnor | bxor | bnxor | btstG | btstS | bntst => exact sequential_acts h (bitTest_acts _ _ s)
  case btstc | btsts | bclrG | bsetG | bnotG | bmcnd | bclrS | bsetS | bnotS =>
    exact sequential_acts h (bitModify_acts _ _ _ s)
  case bmcndC => exact sequential_acts h (setFlg_keeps s _).acts
  case addGSp | addQSp => exact sequential_acts h (addToSp_effect _ s).acts
  case movGSrc | movGFromSp => exact sequential_acts h (withSrc_acts s fun _ t => moveTo_acts _ _ _ _ t)
  case movGToSp z src d =>
    exact sequential_acts h (withSrc_acts s fun v t => moveTo_acts .mov z v (.mem (near (s.spEa d))) t)
  case movBSSrcHalf hf src =>
    exact sequential_acts h (withSrc_acts s fun v t => moveTo_acts .mov .b v (.data (halfDreg hf)) t)
  case movBSSrcAn a src => exact sequential_acts h (withSrc_acts s fun v t => moveTo_acts .mov .b v (.addr a) t)
  case movGImm | movQ | movBSImm | movBZ => exact sequential_acts h (moveTo_acts _ _ _ _ s)
  case movBSHalfDest hf m => exact sequential_acts h (moveTo_acts .mov .b _ (.mem (near (s.shortEa m))) s)
  case movWSImmAn v a => exact sequential_acts h (moveTo_acts .mov .w v (.addr a) s)
  case movBSImmAn v a => exact sequential_acts h (moveTo_acts .mov .b v (.addr a) s)
  case mova src r => exact sequential_acts h (setReg16_keeps s r _).acts
  case movDirToR0L k src =>
    exact sequential_acts h ((readLoc_keeps .b (s.loc src) s).trans (m := []) (setDreg8_keeps _ .d0 _)).acts
  case movDirFromR0L k dst =>
    exact sequential_acts h (.after (readLoc_keeps .b (s.loc dst) s) (writeLoc_acts .other .b _ _ _))
  case ldeAbs20 | ldeDsp20 | ldeA1A0 => exact sequential_acts h (ldeFrom_acts _ _ _ s)
  case steAbs20 | steDsp20 | steA1A0 => exact sequential_acts h (steTo_acts _ _ _ s)
  case stz v dst => exact sequential_acts h (.ite (writeLoc_acts .other .b _ v s) (Keeps.refl s).acts)
  case stnz v dst => exact sequential_acts h (.ite_not (writeLoc_acts .other .b _ v s) (Keeps.refl s).acts)
  case stzx | stcDest => exact sequential_acts h (writeLoc_acts .other _ _ _ s)
  case xchg => exact sequential_acts h (xchgWith_acts _ _ _ s)
  case stcPc dst => exact sequential_acts h (stcPc_acts dst _ s)
  case pushGImm => exact sequential_acts h (pushSized_acts _ _ s)
  case pushG => exact sequential_acts h (pushLoc_acts _ _ s)
  case pushBS => exact sequential_acts h (push8_acts _ s)
  case pushWS | pusha | pushc => exact sequential_acts h (push16_acts _ s)
  case pushm => exact sequential_acts h (pushRegs_acts _ s)
  case popG z dst => exact sequential_acts h (.after (popSized_keeps z s) (writeLoc_acts .other z _ _ _))
  case popBS h' => exact sequential_acts h (pop8Half_effect h' s).acts
  case popWS a => exact sequential_acts h ((pop16_keeps s).trans (m := []) (setAreg_keeps _ a _)).acts
  case popm => exact sequential_acts h (popRegs_keeps _ s).acts
  case popc c => exact sequential_acts h ((popc_effect c s).keeps.trans (m := []) (afterPopc_keeps s _)).acts
  case mulImm | muluImm => exact sequential_acts h (mulTo_acts _ _ _ _ s)
  case mulSrc | muluSrc => exact sequential_acts h (withSrc_acts s fun _ t => mulTo_acts _ _ _ _ t)
  case extsB => exact sequential_acts h (extsTo_acts _ s)
  case extsW => exact sequential_acts h (setDreg16_keeps s .d2 _).acts
  case divImm | divuImm | divxImm => exact sequential_acts h (divBy_keeps _ _ _ s).acts
  case divSrc | divuSrc | divxSrc => exact sequential_acts h (divByLoc_keeps _ _ _ s).acts
  case enter =>
    exact sequential_acts h ((push16_acts _ s).next fun t => (setFb_keeps t _).trans (m := []) (setSp_keeps _ _))
  case ldctx num table => exact sequential_acts h (ldctx_effect num table s).acts
  case stctx num table => exact sequential_acts h (stctx_acts num table s)
  case nop => exact sequential_acts h (Keeps.refl s).acts
  case wait => exact sequential_acts h (waiting_effect s true).acts
  case ldipl l => exact sequential_acts h (ldipl_effect l s).acts
  case fset f => exact sequential_acts h (putFlag_effect f true s).acts
  case fclr f => exact sequential_acts h (putFlag_effect f false s).acts
  case ldcImm v c => exact sequential_acts h (loadCreg_effect c v s s).acts
  case ldcSrc src c =>
    exact sequential_acts h ((readLoc_keeps .w (s.loc src) s).trans (m := []) (loadCreg_effect c _ s _).keeps).acts
  case ldintb v =>
    exact sequential_acts h ((setIntb_effect s v).keeps.trans (m := []) (afterCreg_effect s .intbl _).keeps).acts
  all_goals cases hpc

/-- A well-formed instruction goes on when all its stores can be made, and otherwise stops at one of them. -/
theorem exec_acts : Acts (storedTo i s) s (exec i s) := by
  cases hpc : writesPc i with
  | true => exact exec_acts_of_writesPc h s hpc
  | false => exact exec_acts_of_not_writesPc h s hpc

end

/-- Every instruction checks its term before it does anything (R171). -/
theorem exec_guarded (i : Instr) : ∃ body, exec i = guarded i body := by
  cases i <;> exact ⟨_, rfl⟩

theorem exec_illFormed {i : Instr} (h : i.wellFormed = false) (s : State) :
    exec i s = .refused .reservedEncoding := by
  obtain ⟨body, hbody⟩ := exec_guarded i
  rw [hbody, guarded, h]
  rfl

/-- Settles O12: the check of the term, and then the answers of `exec_acts`. -/
theorem outcomes : Obligations.Outcomes := by
  intro i s
  refine ⟨fun h => exec_illFormed h s, fun ⟨hwf, hw⟩ => (exec_acts hwf s).completes hw, fun hwf hnot => ?_⟩
  rcases exec_acts hwf s with ⟨hw, -⟩ | ⟨a, ha, hrom, he⟩ | ⟨a, ha, hrom, hhole, he⟩
  · exact absurd ⟨hwf, hw⟩ hnot
  · exact ⟨a, ha, .inl ⟨hrom, he⟩⟩
  · exact ⟨a, ha, .inr ⟨hrom, hhole, he⟩⟩

end Sys2Proof.Machine
end

section
/-! PROOFS. `MOV` (R201 to R212), the other transfers (R215, R218, R240 to R245), and words of the spec's examples. -/

namespace Sys2Proof.Machine

/-! `MOV` (R201 to R212). -/

/-- A transfer whose store can be made leaves the value, with S and Z from it. It runs in a state that differs from
`p.s` by what reading the source does. -/
theorem exec_mov {i : Instr} {body : State → Result} {s s' : State} (p : TwoOperands)
    (hexec : exec i s = sequential i body s) (hbody : body s = movTo p.z p.v p.l s') (hread : Touches [] s s')
    (h : i.wellFormed = true ∧ ∀ a ∈ locBytes p.z p.l, s.writable a = true) :
    ∃ t, exec i s = .next t ∧ p.leaves t fun _ _ v r => r = v ∧ showsSZ r t.flg := by
  have hacts : Acts (locBytes p.z p.l) s (body s) := hbody ▸ .after hread.keeps (moveTo_acts .mov p.z p.v p.l s')
  obtain ⟨u, hu, ht⟩ := exec_completes hexec hacts h
  refine ⟨_, ht, TwoOperands.leaves_advance (TwoOperands.leaves_of_source
    (rel := fun _ v r => r = v ∧ showsSZ r u.flg)
    (TwoOperands.leaves_mono (moveTo_result (hbody.symm.trans hu)) ?_))⟩
  rintro w d v r ⟨rfl, hflg⟩
  exact ⟨rfl, hflg ▸ setSZ_shows r _⟩

theorem exec_movBSSrcHalf (h : Half) (src : ShortSrc) (s : State) :
    exec (.movBSSrcHalf h src) s = execMovBSSrcHalf h src s := rfl

theorem exec_movBSSrcAn (a : AReg) (src : ShortSrc) (s : State) :
    exec (.movBSSrcAn a src) s = execMovBSSrcAn a src s := rfl

theorem exec_movGSrc (z : Size) (src dst : Operand) (s : State) :
    exec (.movGSrc z src dst) s = execMovGSrc z src dst s := rfl

theorem exec_movGFromSp (z : Size) (d : BitVec 8) (dst : Operand) (s : State) :
    exec (.movGFromSp z d dst) s = execMovGFromSp z d dst s := rfl

theorem exec_movGToSp (z : Size) (src : Operand) (d : BitVec 8) (s : State) :
    exec (.movGToSp z src d) s = execMovGToSp z src d s := rfl

theorem readLoc_mem (z : Size) (a : Addr) (s : State) : readLoc z (.mem a) s = readMem z a s := by
  cases z <;> rfl

/-- A destination in memory is related at the operation size. -/
theorem TwoOperands.leaves_mem {z : Size} {v : BitVec (Size.bits z)} {a : Addr} {s t : State}
    {rel : (w : Nat) → BitVec w → BitVec w → BitVec w → Prop} (h : TwoOperands.leaves ⟨z, v, .mem a, s⟩ t rel) :
    rel (Size.bits z) (readMem z a s).1 v (t.valueAt z (.mem a)) := by
  cases z <;> exact h

theorem movGFromSp_result {z : Size} {d : BitVec 8} {dst : Operand} {s : State} (h : s.allows (.movGFromSp z d dst)) :
    ∃ t, exec (.movGFromSp z d dst) s = .next t ∧
      TwoOperands.leaves ⟨z, (readMem z (near (s.spEa d)) s).1, s.loc dst, s⟩ t
        fun _ _ v r => r = v ∧ showsSZ r t.flg := by
  refine exec_mov ⟨z, (readMem z (near (s.spEa d)) s).1, s.loc dst, s⟩ (exec_movGFromSp z d dst s) ?_
    (readMem_touches z (near (s.spEa d)) s) h
  rw [withSrc, readLoc_mem]

theorem movGToSp_result {z : Size} {src : Operand} {d : BitVec 8} {s : State} (h : s.allows (.movGToSp z src d)) :
    ∃ t, exec (.movGToSp z src d) s = .next t ∧
      t.valueAt z (.mem (near (s.spEa d))) = (readLoc z (s.loc src) s).1 ∧
      showsSZ (readLoc z (s.loc src) s).1 t.flg := by
  obtain ⟨t, ht, hleaves⟩ := exec_mov ⟨z, (readLoc z (s.loc src) s).1, .mem (near (s.spEa d)), s⟩
    (exec_movGToSp z src d s) rfl (readLoc_touches z (s.loc src) s) h
  obtain ⟨hvalue, hflags⟩ := TwoOperands.leaves_mem hleaves
  exact ⟨t, ht, hvalue, hvalue ▸ hflags⟩

theorem movWSImmAn_result (v : Word) (a : AReg) (s : State) :
    ∃ t, exec (.movWSImmAn v a) s = .next t ∧ t.areg a = v ∧ showsSZ v t.flg := by
  obtain ⟨t, ht, hvalue, hflags⟩ := exec_mov (i := .movWSImmAn v a) ⟨.w, v, .addr a, s⟩ rfl rfl (.refl _ _)
    ⟨rfl, nofun⟩
  exact ⟨t, ht, hvalue, hvalue ▸ hflags⟩

/-- A byte goes into an address register with zeros above it. -/
theorem movBSImmAn_result (v : Byte) (a : AReg) (s : State) :
    ∃ t, exec (.movBSImmAn v a) s = .next t ∧ t.areg a = 0#8 ++ v ∧ showsSZ (0#8 ++ v) t.flg := by
  have hzext : v.setWidth 16 = 0#8 ++ v := BitVec.setWidth_eq_append (by decide)
  obtain ⟨t, ht, hvalue, hflags⟩ := exec_mov (i := .movBSImmAn v a) ⟨.b, v, .addr a, s⟩ rfl rfl (.refl _ _)
    ⟨rfl, nofun⟩
  rw [hvalue] at hflags
  exact ⟨t, ht, hvalue.trans hzext, hzext ▸ hflags⟩

theorem movBZ_result {dst : ShortDest} {s : State} (h : s.allows (.movBZ dst)) :
    ∃ t, exec (.movBZ dst) s = .next t ∧ t.valueAt .b (s.shortLoc dst) = 0#8 ∧ t.flg.s = false ∧ t.flg.z = true := by
  obtain ⟨t, ht, hleaves⟩ := exec_mov (i := .movBZ dst) ⟨.b, 0#8, s.shortLoc dst, s⟩ rfl rfl (.refl _ _) h
  have hvalue : t.valueAt .b (s.shortLoc dst) = 0#8 ∧ showsSZ (t.valueAt .b (s.shortLoc dst)) t.flg := by
    cases dst <;> exact hleaves
  obtain ⟨hzero, hs, hz⟩ := hvalue
  rw [hzero] at hs hz
  exact ⟨t, ht, hzero, hs, hz⟩

/-- Settles O34: each form is `exec_mov` at its operands. -/
theorem movResult : Obligations.MovResult :=
  ⟨fun hf m s h => exec_mov ⟨.b, s.dreg8 (halfDreg hf), .mem (near (s.shortEa m)), s⟩
      rfl rfl (.refl _ _) h,
    fun hf src s h => exec_mov (shortSrcTo hf src s) (exec_movBSSrcHalf hf src s) rfl (readLoc_touches _ _ _) h,
    fun a src s h => exec_mov ⟨.b, (readLoc .b (s.shortSrcAnLoc a src) s).1, .addr a, s⟩ (exec_movBSSrcAn a src s) rfl
      (readLoc_touches _ _ _) h,
    fun z src dst s h => exec_mov (srcTo z src dst s) (exec_movGSrc z src dst s) rfl (readLoc_touches _ _ _) h,
    fun v dst s h => exec_mov (immTo v dst s) rfl rfl (.refl _ _) h,
    fun z v dst s h => exec_mov (quickTo z v dst s) rfl rfl (.refl _ _) h,
    movWSImmAn_result, movBSImmAn_result,
    fun v dst s h => exec_mov (shortImmTo v dst s) rfl rfl (.refl _ _) h,
    fun _ _ => movBZ_result, fun _ _ _ _ => movGFromSp_result, fun _ _ _ _ => movGToSp_result⟩

/-! `MOVA`, `MOVDir`, `STZ`, `STNZ` and `STZX` (R215, R218, R240 to R242). -/

theorem mova_result {src : Ea} {r : Reg16} {s : State} (h : (Instr.mova src r).wellFormed = true) :
    ∃ t, exec (.mova src r) s = .next t ∧ t.reg16 r = s.ea src :=
  ⟨(s.setReg16 r (s.ea src)).advance (Instr.mova src r).length,
    (rfl : _ = execMova src r s).trans (sequential_eq_next.mpr ⟨h, _, rfl, rfl⟩), State.setReg16_reg16 s r (s.ea src)⟩

theorem moveNibble_moved (k : Dir) (v d : Byte) : nibbleMoved k v d (moveNibble k v d) := by
  cases k with
  | hh | lh => exact ⟨BitVec.extractLsb'_append_eq_left, BitVec.extractLsb'_append_eq_right⟩
  | hl | ll => exact ⟨BitVec.extractLsb'_append_eq_right, BitVec.extractLsb'_append_eq_left⟩

theorem State.dreg8_advance (s : State) (n : Nat) (r : DReg) : (s.advance n).dreg8 r = s.dreg8 r := by
  cases r <;> rfl

theorem movDirToR0L_result {k : Dir} {src : Operand} {s : State} (h : (Instr.movDirToR0L k src).wellFormed = true) :
    ∃ t, exec (.movDirToR0L k src) s = .next t ∧
      nibbleMoved k (readLoc .b (s.loc src) s).1 (s.dreg8 .d0) (t.dreg8 .d0) := by
  refine ⟨_, (rfl : _ = execMovDirToR0L k src s).trans (sequential_eq_next.mpr ⟨h, _, rfl, rfl⟩), ?_⟩
  rw [State.dreg8_advance, State.setDreg8_dreg8]
  exact moveNibble_moved k _ _

/-- An instruction that ends with a write whose bytes can be stored leaves the value at its location. -/
theorem exec_writeLoc {i : Instr} {body : State → Result} {s s' : State} (z : Size) (l : Loc)
    (v : BitVec (Size.bits z)) (hexec : exec i s = sequential i body s) (hbody : body s = writeLoc .other z l v s')
    (hread : Touches [] s s') (h : i.wellFormed = true ∧ ∀ a ∈ locBytes z l, s.writable a = true) :
    ∃ t, exec i s = .next t ∧ t.valueAt z l = v := by
  have hacts : Acts (locBytes z l) s (body s) := hbody ▸ .after hread.keeps (writeLoc_acts .other z l v s')
  obtain ⟨u, hu, ht⟩ := exec_completes hexec hacts h
  exact ⟨_, ht, (State.valueAt_advance ..).trans (writeLoc_result (hbody.symm.trans hu)).1⟩

theorem exec_movDirFromR0L (k : Dir) (dst : Operand) (s : State) :
    exec (.movDirFromR0L k dst) s = execMovDirFromR0L k dst s := rfl

theorem movDirFromR0L_result {k : Dir} {dst : Operand} {s : State} (h : s.allows (.movDirFromR0L k dst)) :
    ∃ t, exec (.movDirFromR0L k dst) s = .next t ∧
      nibbleMoved k (s.dreg8 .d0) (readLoc .b (s.loc dst) s).1 (t.valueAt .b (s.loc dst)) := by
  obtain ⟨t, ht, hvalue⟩ := exec_writeLoc .b (s.loc dst)
    (moveNibble k (s.dreg8 .d0) (readLoc .b (s.loc dst) s).1) (exec_movDirFromR0L k dst s) rfl
    (readLoc_touches .b (s.loc dst) s) h
  exact ⟨t, ht, hvalue ▸ moveNibble_moved k _ _⟩

section
variable {v : Byte} {dst : ShortDest} {s : State}

/-- `STZ` stores when Z is set (R241). -/
theorem stz_result (hz : s.flg.z = true) (h : s.allows (.stz v dst)) :
    ∃ t, exec (.stz v dst) s = .next t ∧ t.valueAt .b (s.shortLoc dst) = v := by
  refine exec_writeLoc .b (s.shortLoc dst) v (rfl : _ = execStz v dst s) (if_pos hz) (.refl [] s) ⟨rfl, ?_⟩
  simpa [storedTo, hz] using h.2

theorem stz_skips (hz : s.flg.z = false) : exec (.stz v dst) s = .next (s.advance (Instr.stz v dst).length) :=
  (rfl : _ = execStz v dst s).trans (sequential_eq_next.mpr ⟨rfl, s, by simp [hz], rfl⟩)

/-- `STNZ` stores when Z is clear (R240). -/
theorem stnz_result (hz : s.flg.z = false) (h : s.allows (.stnz v dst)) :
    ∃ t, exec (.stnz v dst) s = .next t ∧ t.valueAt .b (s.shortLoc dst) = v := by
  refine exec_writeLoc .b (s.shortLoc dst) v (rfl : _ = execStnz v dst s) (if_neg (by simp [hz])) (.refl [] s) ⟨rfl, ?_⟩
  simpa [storedTo, hz] using h.2

theorem stnz_skips (hz : s.flg.z = true) : exec (.stnz v dst) s = .next (s.advance (Instr.stnz v dst).length) :=
  (rfl : _ = execStnz v dst s).trans (sequential_eq_next.mpr ⟨rfl, s, by simp [hz], rfl⟩)

end

/-! `XCHG` (R245). -/

theorem dreg8_setDreg8 (s : State) (r q : DReg) (v : Byte) :
    (s.setDreg8 r v).dreg8 q = if q = r then v else s.dreg8 q := by
  cases r <;> cases q <;> simp [State.setDreg8, State.dreg8]

theorem dreg16_setDreg16 (s : State) (r q : DReg) (v : Word) :
    (s.setDreg16 r v).dreg16 q = if q = r then v else s.dreg16 q := by
  cases r <;> cases q <;> simp [State.setDreg16, State.dreg16]

theorem areg_setDreg8 (s : State) (r : DReg) (v : Byte) (a : AReg) : (s.setDreg8 r v).areg a = s.areg a := by
  cases r <;> cases a <;> simp [State.setDreg8, State.areg]

theorem areg_setDreg16 (s : State) (r : DReg) (v : Word) (a : AReg) : (s.setDreg16 r v).areg a = s.areg a := by
  cases r <;> cases a <;> simp [State.setDreg16, State.areg]

theorem valueAt_setDreg8 (s : State) (r : DReg) (v : Byte) (l : Loc) :
    (s.setDreg8 r v).valueAt .b l = if l = .data r then v else s.valueAt .b l := by
  cases l with
  | data q => simp [State.valueAt, dreg8_setDreg8]
  | addr a => simp [State.valueAt, areg_setDreg8]
  | mem a => simp [State.valueAt]

theorem valueAt_setDreg16 (s : State) (r : DReg) (v : Word) (l : Loc) :
    (s.setDreg16 r v).valueAt .w l = if l = .data r then v else s.valueAt .w l := by
  cases l with
  | data q => simp [State.valueAt, dreg16_setDreg16]
  | addr a => simp [State.valueAt, areg_setDreg16]
  | mem a => simp [State.valueAt]

/-- A write to a data register leaves what any other location holds. -/
theorem writeLoc_data_valueAt {z : Size} {r : DReg} {v : BitVec (Size.bits z)} {s t : State}
    (h : writeLoc .other z (.data r) v s = .next t) (l : Loc) :
    t.valueAt z l = if l = .data r then v else s.valueAt z l := by
  cases z <;> cases h
  · exact valueAt_setDreg8 s r v l
  · exact valueAt_setDreg16 s r v l

/-- An exchange reads both values, then writes at the location and after it in the register. -/
theorem xchgWith_eq (z : Size) (src : DReg) (l : Loc) (s : State) : xchgWith z src l s =
    andThen (writeLoc .other z l (readLoc z (.data src) s).1 (readLoc z l s).2)
      (writeLoc .other z (.data src) (readLoc z l s).1) := by
  cases z <;> cases l <;> rfl

/-- Where the location is the register itself, both values are the same. -/
theorem xchgWith_result {z : Size} {src : DReg} {l : Loc} {s t : State} (h : xchgWith z src l s = .next t) :
    t.valueAt z (.data src) = (readLoc z l s).1 ∧ t.valueAt z l = (readLoc z (.data src) s).1 := by
  rw [xchgWith_eq] at h
  obtain ⟨u, hu, ht⟩ := andThen_eq_next.mp h
  refine ⟨(writeLoc_result ht).1, ?_⟩
  rw [writeLoc_data_valueAt ht]
  split
  case isTrue hl => rw [hl]
  case isFalse => exact (writeLoc_result hu).1

theorem exec_xchg (z : Size) (src : DReg) (dst : Operand) (s : State) : exec (.xchg z src dst) s =
    sequential (.xchg z src dst) (fun s => xchgWith z src (s.loc dst) s) s := rfl

theorem xchg_result {z : Size} {src : DReg} {dst : Operand} {s : State} (h : s.allows (.xchg z src dst)) :
    ∃ t, exec (.xchg z src dst) s = .next t ∧ t.valueAt z (.data src) = (readLoc z (s.loc dst) s).1 ∧
      t.valueAt z (s.loc dst) = (readLoc z (.data src) s).1 := by
  obtain ⟨u, hu, ht⟩ := exec_completes (exec_xchg z src dst s) (xchgWith_acts z src (s.loc dst) s) h
  obtain ⟨hreg, hloc⟩ := xchgWith_result hu
  exact ⟨_, ht, (State.valueAt_advance ..).trans hreg, (State.valueAt_advance ..).trans hloc⟩

/-- At `.B` an address register takes the byte with zeros above it. -/
theorem xchg_areg {src : DReg} {a : AReg} {s t : State} (h : exec (.xchg .b src (.addr a)) s = .next t) :
    t.areg a = 0#8 ++ s.dreg8 src := by
  cases h
  calc ((s.setAreg a ((s.dreg8 src).setWidth 16)).setDreg8 src (loByte (s.areg a))).areg a
      = (s.dreg8 src).setWidth 16 := by rw [areg_setDreg8, State.setAreg_areg]
    _ = 0#8 ++ s.dreg8 src := BitVec.setWidth_eq_append (by decide)

theorem xchgByte_result {src : DReg} {dst : Operand} {s : State} (h : s.allows (.xchg .b src dst)) :
    ∃ t, exec (.xchg .b src dst) s = .next t ∧ t.dreg8 src = (readLoc .b (s.loc dst) s).1 ∧
      t.valueAt .b (s.loc dst) = s.dreg8 src ∧ ∀ a, dst = .addr a → t.areg a = 0#8 ++ s.dreg8 src := by
  obtain ⟨t, ht, hreg, hloc⟩ := xchg_result h
  refine ⟨t, ht, hreg, hloc, ?_⟩
  rintro a rfl
  exact xchg_areg ht

/-- Settles O36: the conditional stores by Z, the others by what they write. -/
theorem otherTransfers : Obligations.OtherTransfers :=
  ⟨fun _ _ _ => mova_result, fun _ _ _ => movDirToR0L_result, fun _ _ _ => movDirFromR0L_result,
    fun _ _ _ => stz_result, fun _ _ _ => stz_skips, fun _ _ _ => stnz_result, fun _ _ _ => stnz_skips,
    fun v w dst s h => exec_writeLoc .b (s.shortLoc dst) (if s.flg.z then v else w) (rfl : _ = execStzx v w dst s) rfl
      (.refl [] s) h,
    fun _ _ _ => xchgByte_result, fun _ _ _ => xchg_result⟩

/-! Words of the spec's examples. -/

/-- Settles O5: each word is the encoding of its instruction, which decodes to it. -/
theorem decodeWords : Obligations.DecodeWords :=
  ⟨decodeEncode (.addGImm (.w 2#16) (.mem (.ind .a0))) [] rfl rfl,
    decodeEncode (.movGImm (.w 0xFFFF#16) (.data .d2)) [] rfl rfl,
    decodeEncode (.bsetG (.abs16 0x52#16)) [] rfl rfl,
    decodeEncode (.ldcImm 15#16 .intbh) [] rfl rfl,
    decodeEncode (.steDsp20 .w (.data .d0) 0x10000#20) [] rfl rfl,
    decodeEncode (.ldctx 0x400#16 0xF8000#20) [] rfl rfl,
    decodeEncode (.adjnz .w 15#4 (.data .d0) 0xFE#8) [] rfl rfl,
    decodeEncode (.shlImm .b 10#4 (.data .d0)) [] rfl rfl,
    decodeEncode (.movDirFromR0L .hl (.mem (.ind .a0))) [] rfl rfl,
    decodeEncode (.jcnd16 .ge 5#8) [] rfl rfl⟩

end Sys2Proof.Machine
end

section
/-! PROOFS. Register lists on the stack (R224, R231). -/

namespace Sys2Proof.Machine

/-! The registers a list names. -/

/-- The model picks registers one by one; the statements filter the numbered order. -/
theorem selected_eq_filter (l : List CtxReg) (k : Nat) (list : BitVec 8) :
    selected l k list = ((l.zipIdx k).filter fun p => list.getLsbD p.2).map Prod.fst := by
  induction l generalizing k with
  | nil => rfl
  | cons r l ih =>
    rw [selected, List.zipIdx_cons, List.filter_cons, ih]
    split <;> rfl

theorem selected_append (l m : List CtxReg) (k : Nat) (list : BitVec 8) :
    selected (l ++ m) k list = selected l k list ++ selected m (k + l.length) list := by
  simp [selected_eq_filter, List.zipIdx_append]

/-- Bit `k` of a list stands for the same register as bit `7 - k` of the mirrored one (R231). -/
theorem selected_reverse {l : List CtxReg} (h : l.length ≤ 8) (list : BitVec 8) :
    selected l.reverse 0 list = (selected l (8 - l.length) (mirrored list)).reverse := by
  induction l with
  | nil => rfl
  | cons r l ih =>
    have hlen : l.length < 8 := h
    have hnext : 8 - (r :: l).length + 1 = 8 - l.length := by rw [List.length_cons]; omega
    have hbit : (mirrored list).getLsbD (8 - (r :: l).length) = list.getLsbD l.length := by
      have hpos : 8 - 1 - (8 - (l.length + 1)) = l.length := by omega
      rw [mirrored, BitVec.getLsbD_reverse, BitVec.getMsbD, List.length_cons, hpos, decide_eq_true (by omega),
        Bool.true_and]
    rw [List.reverse_cons, selected_append, ih hlen.le, List.length_reverse, Nat.zero_add]
    simp only [selected, hnext, hbit]
    split <;> simp

theorem selected_ctxRegs_reverse (list : BitVec 8) :
    selected ctxRegs.reverse 0 list = (listed (mirrored list)).reverse := by
  rw [selected_reverse (by decide), selected_eq_filter]
  rfl

theorem selected_ctxRegs (list : BitVec 8) : selected ctxRegs 0 list = listed list :=
  selected_eq_filter ctxRegs 0 list

theorem length_listed_le (list : BitVec 8) : (listed list).length ≤ 8 := by
  rw [← selected_ctxRegs]
  exact length_selected_le ctxRegs 0 list

theorem listed_nodup (list : BitVec 8) : (listed list).Nodup := by
  have hsub : (listed list).Sublist (ctxRegs.zipIdx.map Prod.fst) := List.filter_sublist.map Prod.fst
  rw [List.zipIdx_map_fst] at hsub
  exact hsub.nodup (by decide)

/-! Words at ascending addresses. -/

theorem two_mul_ofNat (n : Nat) : 2 * BitVec.ofNat 16 n = twice n := by
  rw [twice, BitVec.ofNat_mul]
  rfl

theorem twice_succ (n : Nat) : twice (n + 1) = 2 + twice n := by
  rw [← two_mul_ofNat, ← two_mul_ofNat, BitVec.ofNat_add, BitVec.mul_add, BitVec.add_comm]
  rfl

theorem spillBytes_succ (n : Nat) (sp : Word) :
    spillBytes (n + 1) sp = sizeAt .w (near sp) ++ spillBytes n (sp + 2) := by
  simp only [spillBytes, two_mul_ofNat, List.range_succ_eq_map, List.flatMap_cons, List.flatMap_map, twice_succ,
    BitVec.add_assoc]
  simp [twice]

/-- A word depends on its two bytes. -/
theorem wordAt_congr {m m' : List Host.Cell} {a : Addr}
    (h : ∀ b ∈ sizeAt .w a, memGet m' b.toNat = memGet m b.toNat) : wordAt m' a = wordAt m a := by
  rw [wordAt, wordAt, h a (by simp [sizeAt]), h (a + 1) (by simp [sizeAt])]

section
variable {s t : State} {m m' : List Host.Cell} {sp : Word} {r : CtxReg} {l : List CtxReg}

theorem spilled_nil : spilled s m sp [] := fun _ _ h => by simp at h

/-- The first register lies at the stack pointer, the others above it. -/
theorem spilled_cons :
    spilled s m sp (r :: l) ↔ wordAt m (near sp) = s.ctx r ∧ spilled s m (sp + 2) l := by
  constructor
  · refine fun h => ⟨by simpa using h 0 r rfl, fun j x hx => ?_⟩
    have hnext := h (j + 1) x hx
    rwa [two_mul_ofNat, twice_succ, ← BitVec.add_assoc, ← two_mul_ofNat] at hnext
  · rintro ⟨h0, h⟩ j x hx
    cases j with
    | zero => cases hx; simpa using h0
    | succ j => rw [two_mul_ofNat, twice_succ, ← BitVec.add_assoc, ← two_mul_ofNat]; exact h j x hx

/-- The last register lies above the others. -/
theorem spilled_concat :
    spilled s m sp (l ++ [r]) ↔ spilled s m sp l ∧ wordAt m (near (sp + twice l.length)) = s.ctx r := by
  induction l generalizing sp with
  | nil => simp [spilled_cons, spilled_nil, twice]
  | cons x l ih =>
    rw [List.cons_append, spilled_cons, spilled_cons, ih, List.length_cons, twice_succ, BitVec.add_assoc, and_assoc]

theorem spilled_mem_congr (h : ∀ a ∈ spillBytes l.length sp, memGet m' a.toNat = memGet m a.toNat)
    (hs : spilled s m sp l) : spilled s m' sp l := by
  induction l generalizing sp with
  | nil => exact spilled_nil
  | cons x l ih =>
    rw [List.length_cons, spillBytes_succ] at h
    obtain ⟨hx, hl⟩ := spilled_cons.mp hs
    exact spilled_cons.mpr ⟨(wordAt_congr fun a ha => h a (List.mem_append_left _ ha)).trans hx,
      ih (fun a ha => h a (List.mem_append_right _ ha)) hl⟩

/-- States whose registers lie in the same words agree on them. -/
theorem ctx_eq_of_spilled (hs : spilled s m sp l) (ht : spilled t m sp l) (hr : r ∈ l) : t.ctx r = s.ctx r := by
  obtain ⟨j, hj⟩ := List.mem_iff_getElem?.mp hr
  exact (ht j r hj).symm.trans (hs j r hj)

theorem spilled_ctx_congr (h : t.ctx = s.ctx) (hs : spilled s m sp l) : spilled t m sp l :=
  fun j r hr => (hs j r hr).trans (congrFun h r).symm

end

/-! One register. -/

theorem ctx_eq_of_bank {s t : State} (hbank : t.bank = s.bank) (hsb : t.sb = s.sb) : t.ctx = s.ctx := by
  funext r
  cases r with
  | reg r => cases r <;> simp only [State.ctx, State.reg16, hbank]
  | sb => exact hsb
  | fb => exact congrArg Bank.fb hbank

theorem reg16_setReg16 (s : State) (r q : Reg16) (v : Word) :
    (s.setReg16 r v).reg16 q = if q = r then v else s.reg16 q := by
  cases r <;> cases q <;> simp [State.setReg16, State.reg16]

theorem fb_setReg16 (s : State) (r : Reg16) (v : Word) : (s.setReg16 r v).bank.fb = s.bank.fb := by
  cases r <;> simp [State.setReg16]

theorem reg16_setFb (s : State) (q : Reg16) (v : Word) : (s.setFb v).reg16 q = s.reg16 q := by
  cases q <;> simp [State.setFb, State.reg16]

/-- Writing a register of a list changes that register alone. -/
theorem ctx_setCtx (s : State) (r q : CtxReg) (v : Word) :
    (s.setCtx r v).ctx q = if q = r then v else s.ctx q := by
  cases r with
  | reg r =>
    cases q with
    | reg q => simpa [State.ctx, State.setCtx] using reg16_setReg16 s r q v
    | sb => simp [State.ctx, State.setCtx]
    | fb => simpa [State.ctx, State.setCtx] using fb_setReg16 s r v
  | sb => cases q <;> rfl
  | fb =>
    cases q with
    | reg q => simpa [State.ctx, State.setCtx] using reg16_setFb s q v
    | sb => rfl
    | fb => simp [State.ctx, State.setCtx]

theorem sp_setCtx (s : State) (r : CtxReg) (v : Word) : (s.setCtx r v).sp = s.sp := by
  cases r with
  | reg r => exact State.setReg16_sp s r v
  | sb | fb => rfl

/-! `PUSHM` (R231). -/

theorem push16_saves {v : Word} {s t : State} (h : push16 v s = .next t) :
    t.sp = s.sp - 2 ∧ wordAt t.mem (near t.sp) = v ∧ t.ctx = s.ctx := by
  have hsp := push16_sp h
  have htouches := writeMem_touches (z := .w) h
  refine ⟨hsp, ?_, ?_⟩
  · rw [hsp]
    exact (writeMem_result (z := .w) h).1
  · have hsb : t.sb = s.sb := by rw [htouches.rest]; rfl
    exact ctx_eq_of_bank htouches.bank hsb

/-- The pushes that follow leave the word just pushed. -/
theorem pushRegs_wordAt {l : List CtxReg} {s t : State} (hl : l.length < 8) (h : pushRegs l s = .next t) :
    wordAt t.mem (near s.sp) = wordAt s.mem (near s.sp) := by
  have hnodup := pushedBytes_nodup (n := l.length + 1) hl (s.sp + 2)
  rw [pushedBytes, pushAt, BitVec.add_sub_cancel] at hnodup
  exact wordAt_congr fun a ha => (pushRegs_leaves l s t h).keeps.mem a (List.disjoint_of_nodup_append hnodup ha)

/-- Registers pushed one after another lie in the opposite order from the new SP up. -/
theorem pushRegs_spilled {l : List CtxReg} {s t : State} (hl : l.length ≤ 8) (h : pushRegs l s = .next t) :
    t.sp = s.sp - twice l.length ∧ spilled s t.mem t.sp l.reverse := by
  induction l generalizing s with
  | nil =>
    cases h
    exact ⟨(BitVec.sub_zero _).symm, spilled_nil⟩
  | cons r l ih =>
    obtain ⟨u, hu, ht⟩ := andThen_eq_next.mp h
    obtain ⟨husp, hword, hctx⟩ := push16_saves hu
    obtain ⟨hsp, hspilled⟩ := ih (Nat.le_of_succ_le hl) ht
    refine ⟨?_, ?_⟩
    · rw [hsp, husp, List.length_cons, twice_succ, BitVec.sub_sub]
    · rw [List.reverse_cons, spilled_concat, List.length_reverse, hsp, BitVec.sub_add_cancel, ← hsp]
      exact ⟨spilled_ctx_congr hctx.symm hspilled, (pushRegs_wordAt hl ht).trans hword⟩

theorem exec_pushm (list : BitVec 8) (s : State) : exec (.pushm list) s =
    sequential (.pushm list) (fun s => pushRegs (selected ctxRegs.reverse 0 list) s) s := rfl

theorem pushm_result {list : BitVec 8} {s t : State} (h : exec (.pushm list) s = .next t) :
    t.sp = s.sp - twice (listed (mirrored list)).length ∧ spilled s t.mem t.sp (listed (mirrored list)) := by
  rw [exec_pushm, sequential_eq_next, selected_ctxRegs_reverse] at h
  obtain ⟨-, u, hu, rfl⟩ := h
  simpa using pushRegs_spilled (by simpa using length_listed_le _) hu

/-! `POPM` (R224). -/

theorem popRegs_sp (l : List CtxReg) (s : State) : (popRegs l s).sp = s.sp + twice l.length := by
  induction l generalizing s with
  | nil => exact (BitVec.add_zero s.sp).symm
  | cons r l ih => rw [popRegs, ih, sp_setCtx, (pop16_result s).1, List.length_cons, twice_succ, BitVec.add_assoc]

theorem pop16_ctx (s : State) : (pop16 s).2.ctx = s.ctx := by
  have htouches := readWord_touches (near s.sp) s
  have hsb : (readWord (near s.sp) s).2.sb = s.sb := by rw [htouches.rest]
  exact ctx_eq_of_bank htouches.bank hsb

theorem popRegs_ctx_other {l : List CtxReg} {r : CtxReg} (s : State) (h : r ∉ l) :
    (popRegs l s).ctx r = s.ctx r := by
  induction l generalizing s with
  | nil => rfl
  | cons q l ih =>
    rw [List.mem_cons, not_or] at h
    obtain ⟨hq, hl⟩ := h
    rw [popRegs, ih _ hl, ctx_setCtx, if_neg hq, pop16_ctx]

theorem plain_setCtx {s : State} {r : CtxReg} {v : Word} {a : Addr} (h : s.plain a) : (s.setCtx r v).plain a := by
  cases r with
  | reg r => cases r <;> exact h
  | sb | fb => exact h

theorem mem_setCtx (s : State) (r : CtxReg) (v : Word) : (s.setCtx r v).mem = s.mem := by
  cases r with
  | reg r => exact State.setReg16_mem s r v
  | sb | fb => rfl

/-- Each register named once takes the word that lies there for it. -/
theorem popRegs_spilled {l : List CtxReg} {s : State} (hnodup : l.Nodup)
    (h : ∀ a ∈ spillBytes l.length s.sp, s.plain a) : spilled (popRegs l s) s.mem s.sp l := by
  induction l generalizing s with
  | nil => exact spilled_nil
  | cons r l ih =>
    obtain ⟨hr, hl⟩ := List.nodup_cons.mp hnodup
    obtain ⟨hsp, hmem, hword, -⟩ := pop16_result s
    rw [List.length_cons, spillBytes_succ] at h
    have hrest := ih (s := (pop16 s).2.setCtx r (pop16 s).1) hl fun a ha => by
      rw [sp_setCtx, hsp] at ha
      exact plain_setCtx ((readWord_touches (near s.sp) s).plain (h a (List.mem_append_right _ ha)))
    rw [mem_setCtx, sp_setCtx, hsp, hmem] at hrest
    refine spilled_cons.mpr ⟨?_, hrest⟩
    rw [popRegs, popRegs_ctx_other _ hr, ctx_setCtx, if_pos rfl]
    exact (hword (h _ (by simp [sizeAt])) (h _ (by simp [sizeAt]))).symm

theorem exec_popm (list : BitVec 8) (s : State) :
    exec (.popm list) s = .next ((popRegs (selected ctxRegs 0 list) s).advance (Instr.popm list).length) := rfl

theorem popm_result (list : BitVec 8) (s : State) : ∃ t, exec (.popm list) s = .next t ∧
    t.sp = s.sp + twice (listed list).length ∧
    ((∀ a ∈ spillBytes (listed list).length s.sp, s.plain a) → spilled t s.mem s.sp (listed list)) := by
  refine ⟨_, exec_popm list s, ?_⟩
  rw [selected_ctxRegs]
  exact ⟨popRegs_sp _ s, popRegs_spilled (listed_nodup list)⟩

/-- Settles O38: `PUSHM` by the list from its other end, `POPM` word by word. -/
theorem pushmPopm : Obligations.PushmPopm := by
  refine ⟨fun list s ⟨hwf, hw⟩ => ?_, popm_result⟩
  obtain ⟨t, ht⟩ := (exec_acts hwf s).completes hw
  exact ⟨t, ht, pushm_result ht⟩

/-- Settles O39: `POPM` reads the words that `PUSHM` stored, at the same addresses. -/
theorem popmUndoesPushm : Obligations.PopmUndoesPushm := by
  intro list s t u ht husp hbytes
  obtain ⟨htsp, hsaved⟩ := pushm_result ht
  obtain ⟨v, hv, hvsp, hloaded⟩ := popm_result (mirrored list) u
  rw [husp] at hvsp hloaded
  have hkept : spilled s u.mem t.sp (listed (mirrored list)) := spilled_mem_congr (fun a ha => (hbytes a ha).2) hsaved
  refine ⟨v, hv, ?_, fun r hr => ctx_eq_of_spilled hkept (hloaded fun a ha => (hbytes a ha).1) hr⟩
  rw [hvsp, htsp, BitVec.sub_add_cancel]

end Sys2Proof.Machine
end

section
/-! PROOFS. The bit instructions that test (R117, R261, R266, R267, R270 to R272, R275, R276, R279). -/

namespace Sys2Proof.Machine

/-- A test of a bit reads it and sets the flags from it and from the flags before (R117). -/
theorem bitTest_eq (l : BitLoc) (f : Bool → Flg → Flg) (s : State) :
    bitTest l f s = .next ((bitRead l s).2.setFlg (f (bitRead l s).1 s.flg)) := by
  cases l with
  | reg r n => rfl
  | mem a n => rw [bitTest, readByte_state_flg, bitRead]

section
variable {i : Instr} {body : State → Result} {s : State} {l : BitLoc}

/-- A bit instruction that tests stores nothing, so it completes in every state. -/
theorem exec_bitTest {f : Bool → Flg → Flg} (hexec : exec i s = sequential i body s)
    (hbody : body s = bitTest l f s) (hi : i.wellFormed = true) :
    ∃ t, exec i s = .next t ∧ t.flg = f (bitRead l s).1 s.flg :=
  ⟨_, hexec.trans (sequential_eq_next.mpr ⟨hi, _, hbody.trans (bitTest_eq l f s), rfl⟩),
    by rw [State.advance_flg, State.setFlg_flg]⟩

/-- The logical instructions combine the bit with C. -/
theorem exec_bitTest_combined {op : Bool → Bool → Bool} (hexec : exec i s = sequential i body s)
    (hbody : body s = bitTest l (bitToC op) s) (hi : i.wellFormed = true) :
    ∃ t, exec i s = .next t ∧ t.flg.c = op (bitRead l s).1 s.flg.c := by
  obtain ⟨t, ht, hflg⟩ := exec_bitTest hexec hbody hi
  exact ⟨t, ht, by rw [hflg]; rfl⟩

/-- `BTST` and `BNTST` show the inverse of the bit in Z; they differ in what they show in C. -/
theorem exec_bitTest_shown {f : Bool → Flg → Flg} {shown : Bool → Bool} (hexec : exec i s = sequential i body s)
    (hbody : body s = bitTest l f s) (hf : ∀ b g, f b g = { g with z := !b, c := shown b })
    (hi : i.wellFormed = true) :
    ∃ t, exec i s = .next t ∧ t.flg.c = shown (bitRead l s).1 ∧ t.flg.z = !(bitRead l s).1 := by
  obtain ⟨t, ht, hflg⟩ := exec_bitTest hexec hbody hi
  rw [hf] at hflg
  exact ⟨t, ht, by rw [hflg], by rw [hflg]⟩

end

/-- `BNXOR` is computed as the exclusive or with the inverse bit; the statement says that the bit equals C (R271). -/
theorem exec_bnxor (src : BitOp) (s : State) :
    ∃ t, exec (.bnxor src) s = .next t ∧ t.flg.c = ((bitRead (s.bitLoc src) s).1 == s.flg.c) := by
  obtain ⟨t, ht, hc⟩ :=
    exec_bitTest_combined (op := fun b c => (!b) ^^ c) (rfl : exec (.bnxor src) s = execBnxor src s) rfl rfl
  exact ⟨t, ht, hc.trans ((Bool.not_xor _ _).trans (Bool.not_not _))⟩

/-- Settles O40: the forms differ in the place of the bit and in what they make of the bit and C. -/
theorem bitTests : Obligations.BitTests :=
  ⟨fun src s => exec_bitTest_combined (op := fun b c => b && c) (rfl : _ = execBand src s) rfl rfl,
   fun src s => exec_bitTest_combined (op := fun b c => !b && c) (rfl : _ = execBnand src s) rfl rfl,
   fun src s => exec_bitTest_combined (op := fun b c => b || c) (rfl : _ = execBor src s) rfl rfl,
   fun src s => exec_bitTest_combined (op := fun b c => !b || c) (rfl : _ = execBnor src s) rfl rfl,
   fun src s => exec_bitTest_combined (op := fun b c => b ^^ c) (rfl : _ = execBxor src s) rfl rfl,
   exec_bnxor,
   fun src s => exec_bitTest_shown (shown := fun b => !b) (rfl : _ = execBntst src s) rfl (fun _ _ => rfl) rfl,
   fun src s => exec_bitTest_shown (shown := fun b => b) (rfl : _ = execBtstG src s) rfl (fun _ _ => rfl) rfl,
   fun n d s => exec_bitTest_shown (shown := fun b => b) (rfl : _ = execBtstS n d s) rfl (fun _ _ => rfl) rfl⟩

end Sys2Proof.Machine
end

section
/-! PROOFS. Shifts and rotates by the count in R1H, and the 32-bit shifts (R301, R305, R307 to R309, R311 to R313). -/

namespace Sys2Proof.Machine

/-! The count in R1H (R301). -/

/-- The count is a signed byte: positive counts shift left. -/
theorem regCount_eq {c : Byte} (h : c ≠ 0#8) : regCount c = (decide (0 < c.toInt), c.toInt.natAbs) := by
  have hne : c.toInt ≠ 0 := BitVec.toInt_ne.mpr h
  have hleft : (!c.msb) = decide (0 < c.toInt) := by
    rw [BitVec.msb_eq_toInt, ← decide_not, decide_eq_decide]
    omega
  exact congrArg (·, c.toInt.natAbs) hleft

theorem natAbs_count_pos {c : Byte} (h : c ≠ 0#8) : 0 < c.toInt.natAbs :=
  Int.natAbs_pos.mpr (BitVec.toInt_ne.mpr h)

/-- A legal count moves a value by at most its width. -/
theorem maxCount_eq_bits (z : Size) : maxCount z = Size.bits z := by cases z <;> rfl

/-! Shifts at `.B` and `.W` (R305, R307, R311). -/

section
variable {k : ShiftKind} {z : Size} {l : Loc} {s u : State} {i : Instr}

theorem shiftByR1H_zero (h : s.count = 0#8) : shiftByR1H k z l s = .next s := if_pos h

theorem shiftByR1H_legal (h : s.count ≠ 0#8) (hlegal : s.count.toInt.natAbs ≤ Size.bits z) :
    shiftByR1H k z l s =
      unaryTo (shiftFlags k (decide (0 < s.count.toInt)) s.count.toInt.natAbs) z l s := by
  rw [shiftByR1H, if_neg h, regCount_eq h, maxCount_eq_bits, if_neg hlegal.not_gt]

/-- A shift by up to the width leaves the value and the flags of the closed form, also after `pc` has moved on. -/
theorem shiftedTo_of_unaryTo {left : Bool} {n : Nat} (h0 : 0 < n) (hn : n ≤ Size.bits z)
    (h : unaryTo (shiftFlags k left n) z l s = .next u) (len : Nat) : shiftedTo k left n z l s (u.advance len) := by
  obtain ⟨hvalue, hflg⟩ := unaryTo_result h
  refine ⟨(State.valueAt_advance ..).trans (hvalue.trans (shiftFlags_value k left _ _ h0 hn)), ?_⟩
  rw [State.advance_flg, hflg]
  exact shiftFlags_shows k left _ _ h0 hn

theorem exec_shiftR1H_zero (hexec : exec i s = sequential i (shiftByR1H k z l) s) (h : s.count = 0#8)
    (hi : i.wellFormed = true) : exec i s = .next (s.advance i.length) :=
  hexec.trans (sequential_eq_next.mpr ⟨hi, s, shiftByR1H_zero h, rfl⟩)

/-- A shift by R1H completes where its store can be made, and a legal count gives the closed form. -/
theorem exec_shiftR1H (hexec : exec i s = sequential i (shiftByR1H k z l) s) (hcount : s.count ≠ 0#8)
    (h : i.wellFormed = true ∧ ∀ a ∈ if s.count = 0#8 then [] else locBytes z l, s.writable a = true) :
    ∃ t, exec i s = .next t ∧ (s.count.toInt.natAbs ≤ Size.bits z →
      shiftedTo k (decide (0 < s.count.toInt)) s.count.toInt.natAbs z l s t) := by
  obtain ⟨u, hu, ht⟩ := exec_completes hexec (shiftByR1H_acts k z l s) h
  refine ⟨_, ht, fun hlegal => ?_⟩
  rw [shiftByR1H_legal hcount hlegal] at hu
  exact shiftedTo_of_unaryTo (natAbs_count_pos hcount) hlegal hu _

end

theorem exec_rotR1H (sz : Size) (dst : Operand) (s : State) :
    exec (.rotR1H sz dst) s = sequential (.rotR1H sz dst) (shiftByR1H .rotate sz (s.loc dst)) s := rfl

theorem exec_shaR1H (sz : Size) (dst : Operand) (s : State) :
    exec (.shaR1H sz dst) s = sequential (.shaR1H sz dst) (shiftByR1H .arith sz (s.loc dst)) s := rfl

theorem exec_shlR1H (sz : Size) (dst : Operand) (s : State) :
    exec (.shlR1H sz dst) s = sequential (.shlR1H sz dst) (shiftByR1H .logical sz (s.loc dst)) s := rfl

/-- Settles O43: the count is read as direction and number of positions, and a legal number is at most the width, where
the positions one by one are the closed form. -/
theorem shiftByRegister : Obligations.ShiftByRegister :=
  ⟨fun sz dst s => exec_shiftR1H_zero (exec_rotR1H sz dst s),
    fun sz dst s => exec_shiftR1H_zero (exec_shaR1H sz dst s),
    fun sz dst s => exec_shiftR1H_zero (exec_shlR1H sz dst s),
    fun sz dst s => exec_shiftR1H (exec_rotR1H sz dst s),
    fun sz dst s => exec_shiftR1H (exec_shaR1H sz dst s),
    fun sz dst s => exec_shiftR1H (exec_shlR1H sz dst s)⟩

/-! Pairs (R23, R24). -/

theorem State.setFlg_bank {s : State} {f : Flg} (h : f.b = s.flg.b) : (s.setFlg f).bank = s.bank := by
  rw [State.bank, State.bank, State.setFlg_flg, h, State.setFlg_bank0, State.setFlg_bank1]

theorem State.pair_eq_of_bank {s t : State} (h : t.bank = s.bank) (p : Pair) : t.pair p = s.pair p := by
  cases p <;> simp only [State.pair, h]

theorem extractLsb'_halves (v : BitVec 32) : v.extractLsb' 16 16 ++ v.extractLsb' 0 16 = v :=
  (BitVec.extractLsb'_append_extractLsb'_eq_extractLsb' rfl).trans BitVec.extractLsb'_eq_self

@[simp] theorem State.setPair_pair (s : State) (p : Pair) (v : BitVec 32) : (s.setPair p v).pair p = v := by
  cases p <;> simp [State.pair, State.setPair, extractLsb'_halves]

/-! The 32-bit shifts (R308, R309, R312, R313). -/

section
variable {i : Instr} {k : ShiftKind} {p : DPair} {s : State}

/-- The flags of a 32-bit shift keep B, so the pair is read back from the bank it was written to. -/
theorem shiftLong_pair (cnt : Bool × Nat) : (shiftLong k cnt p s).pair (dpairPair p) =
    (shiftBy k cnt.1 cnt.2 (s.pair (dpairPair p), s.flg.c)).1 := by
  have hbank : (shiftLong k cnt p s).bank = (s.setPair (dpairPair p) _).bank :=
    State.setFlg_bank (congrArg Flg.b (State.setPair_flg s _ _).symm)
  exact (State.pair_eq_of_bank hbank _).trans (State.setPair_pair s _ _)

/-- Up to 32 positions one by one give the closed form of the pair, also after `pc` has moved on. -/
theorem shiftLong_shifted {left : Bool} {n : Nat} (hn : n ≤ 32) (len : Nat) :
    pairShifted k left n p s ((shiftLong k (left, n) p s).advance len) :=
  have hpair := shiftLong_pair (k := k) (p := p) (s := s) (left, n)
  ⟨hpair.trans (shiftBy_value k left _ _ hn), congrArg BitVec.msb hpair.symm, rfl⟩

theorem shiftLongByR1H_zero (h : s.count = 0#8) : shiftLongByR1H k p s = s := if_pos h

theorem shiftLongByR1H_legal (h : s.count ≠ 0#8) (hlegal : s.count.toInt.natAbs ≤ 16) :
    shiftLongByR1H k p s = shiftLong k (decide (0 < s.count.toInt), s.count.toInt.natAbs) p s := by
  rw [shiftLongByR1H, if_neg h, regCount_eq h, if_neg hlegal.not_gt]

/-- A 32-bit shift stores nothing, so it completes in every state. -/
theorem exec_pairShift {f : State → State} (hexec : exec i s = sequential i (fun s => .next (f s)) s)
    (hi : i.wellFormed = true) : exec i s = .next ((f s).advance i.length) :=
  hexec.trans (sequential_eq_next.mpr ⟨hi, _, rfl, rfl⟩)

theorem exec_shiftLongImm {n : BitVec 4} (hexec : exec i s = .next ((shiftLong k (immCount n) p s).advance 2)) :
    ∃ t, exec i s = .next t ∧ pairShifted k (decide (n.toNat < 8)) (n.toNat % 8 + 1) p s t := by
  rw [immCount_eq] at hexec
  exact ⟨_, hexec, shiftLong_shifted (by omega) 2⟩

theorem exec_shiftLongR1H_zero (hexec : exec i s = .next ((shiftLongByR1H k p s).advance 2)) (h : s.count = 0#8) :
    exec i s = .next (s.advance 2) := by
  rw [hexec, shiftLongByR1H_zero h]

/-- Any count completes; a legal one gives the closed form. -/
theorem exec_shiftLongR1H (hexec : exec i s = .next ((shiftLongByR1H k p s).advance 2)) (h : s.count ≠ 0#8) :
    ∃ t, exec i s = .next t ∧ (s.count.toInt.natAbs ≤ 16 →
      pairShifted k (decide (0 < s.count.toInt)) s.count.toInt.natAbs p s t) := by
  refine ⟨_, hexec, fun hlegal => ?_⟩
  rw [shiftLongByR1H_legal h hlegal]
  exact shiftLong_shifted (by omega) 2

end

theorem exec_shaLImm (n : BitVec 4) (p : DPair) (s : State) :
    exec (.shaLImm n p) s = .next ((shiftLong .arith (immCount n) p s).advance 2) :=
  exec_pairShift (rfl : _ = execShaLImm n p s) rfl

theorem exec_shlLImm (n : BitVec 4) (p : DPair) (s : State) :
    exec (.shlLImm n p) s = .next ((shiftLong .logical (immCount n) p s).advance 2) :=
  exec_pairShift (rfl : _ = execShlLImm n p s) rfl

theorem exec_shaLR1H (p : DPair) (s : State) :
    exec (.shaLR1H p) s = .next ((shiftLongByR1H .arith p s).advance 2) :=
  exec_pairShift (rfl : _ = execShaLR1H p s) rfl

theorem exec_shlLR1H (p : DPair) (s : State) :
    exec (.shlLR1H p) s = .next ((shiftLongByR1H .logical p s).advance 2) :=
  exec_pairShift (rfl : _ = execShlLR1H p s) rfl

/-! The statement's theorem has a namespace of its own: the model has a `shiftLong` too. -/

namespace ShiftProofs

/-- Settles O44: an immediate count and a legal count in R1H are at most 16 positions of the pair's 32, and the count is
taken from the state before the pair is written. -/
theorem shiftLong : Obligations.ShiftLong :=
  ⟨fun n p s => exec_shiftLongImm (exec_shaLImm n p s), fun n p s => exec_shiftLongImm (exec_shlLImm n p s),
    fun p s => exec_shiftLongR1H_zero (exec_shaLR1H p s), fun p s => exec_shiftLongR1H_zero (exec_shlLR1H p s),
    fun p s => exec_shiftLongR1H (exec_shaLR1H p s), fun p s => exec_shiftLongR1H (exec_shlLR1H p s)⟩

end ShiftProofs

end Sys2Proof.Machine
end

section
/-! PROOFS. The instructions with one operand (R331, R334, R347, R348, R351 to R353, R425, R426), the sign extensions
(R349, R350), and the additions to the stack pointer (R340, R341). -/

namespace Sys2Proof.Machine

/-! The operations: the result, and the flags it leaves. -/

theorem eq_intMin_iff_toInt {w : Nat} (hw : 0 < w) {d : BitVec w} :
    d = BitVec.intMin w ↔ d.toInt = -((2 ^ (w - 1) : Nat) : Int) := by
  rw [← BitVec.toInt_inj, BitVec.toInt_intMin_of_pos hw, Nat.cast_pow, Nat.cast_ofNat]

/-- The negative of a value is too large only for the most negative value. -/
theorem neg_outOfRange_iff {w : Nat} (hw : 0 < w) (d : BitVec w) :
    (-d.toInt > ((2 ^ (w - 1) : Nat) : Int) - 1 ∨ -d.toInt < -((2 ^ (w - 1) : Nat) : Int)) ↔ d = BitVec.intMin w := by
  have hlow : -((2 ^ (w - 1) : Nat) : Int) ≤ d.toInt := by
    simpa [BitVec.toInt_intMin_of_pos hw] using BitVec.toInt_intMin_le d
  have hhigh : d.toInt < ((2 ^ (w - 1) : Nat) : Int) := by simpa using BitVec.toInt_lt (x := d)
  rw [eq_intMin_iff_toInt hw]
  omega

/-- `NEG` subtracts from 0: nothing is borrowed for 0 alone (R353). -/
theorem unNeg_result {w : Nat} (hw : 0 < w) (d : BitVec w) (f : Flg) :
    (unNeg w d f).1 = -d ∧ showsSZ (-d) (unNeg w d f).2 ∧ (unNeg w d f).2.c = decide (-d = 0#w) ∧
      (unNeg w d f).2.o = decide (d = BitVec.intMin w) := by
  obtain ⟨hvalue, hc, ho, hsz⟩ := subFlags_result 0#w d false f
  have hneg : 0#w - d - BitVec.ofNat w false.toNat = -d := by simp
  rw [hneg] at hvalue hsz
  refine ⟨hvalue, hsz, hc.trans (decide_eq_decide.mpr ?_), ho.trans (decide_eq_decide.mpr ?_)⟩
  · rw [BitVec.neg_eq_zero_iff, ← BitVec.toNat_inj]
    simp
  · simpa using neg_outOfRange_iff hw d

/-- `ABS` gives the absolute value at the operand's width (R331). -/
theorem unAbs_value (anyC : Bool) {w : Nat} (d : BitVec w) (f : Flg) : (unAbs anyC w d f).1 = d.abs := by
  have hsign : d.toInt < 0 ↔ d.msb = true := by rw [BitVec.msb_eq_toInt, decide_eq_true_iff]
  simp only [unAbs, BitVec.abs_eq, hsign, BitVec.zero_sub]

theorem unAbs_o (anyC : Bool) {w : Nat} (hw : 0 < w) (d : BitVec w) (f : Flg) :
    (unAbs anyC w d f).2.o = decide (d = BitVec.intMin w) := by
  have hmin : d = BitVec.intMin w ↔ d.toNat = 2 ^ (w - 1) := by
    rw [← BitVec.toNat_inj, BitVec.toNat_intMin_of_pos hw]
  rw [decide_eq_decide.mpr hmin]
  rfl

theorem unAbs_showsSZ (anyC : Bool) {w : Nat} (d : BitVec w) (f : Flg) :
    showsSZ (unAbs anyC w d f).1 (unAbs anyC w d f).2 := setSZ_shows _ _

/-! One operand, read and written at the same location (R330). -/

section
variable {i : Instr} {z : Size} {l : Loc} {s : State} {op : UnaryOp}

/-- What an operation says of the operand, its result and its flags holds of the location and of FLG afterwards. -/
theorem exec_unary {rel : BitVec (Size.bits z) → BitVec (Size.bits z) → Flg → Prop}
    (hexec : exec i s = sequential i (unaryTo op z l) s) (hop : ∀ d, rel d (op _ d s.flg).1 (op _ d s.flg).2)
    (h : i.wellFormed = true ∧ ∀ a ∈ locBytes z l, s.writable a = true) :
    ∃ t, exec i s = .next t ∧ rel (readLoc z l s).1 (t.valueAt z l) t.flg := by
  obtain ⟨t, ht, hvalue, hflg⟩ := exec_unaryTo hexec h
  refine ⟨t, ht, ?_⟩
  rw [hvalue, hflg]
  exact hop _

/-- `NOT`, `INC` and `DEC` set S and Z from their result and no other flag. -/
theorem exec_unarySZ (g : (w : Nat) → BitVec w → BitVec w) (hexec : exec i s = sequential i (unaryTo op z l) s)
    (hop : op = fun w d f => (g w d, setSZ (g w d) f))
    (h : i.wellFormed = true ∧ ∀ a ∈ locBytes z l, s.writable a = true) :
    ∃ t, exec i s = .next t ∧ t.valueAt z l = g _ (readLoc z l s).1 ∧ showsSZ (t.valueAt z l) t.flg := by
  subst hop
  exact exec_unary (rel := fun d r f => r = g _ d ∧ showsSZ r f) hexec (fun _ => ⟨rfl, setSZ_shows _ _⟩) h

/-- At `.W` an address register is the location, and nothing has to be storable. -/
theorem exec_unaryAddr (g : (w : Nat) → BitVec w → BitVec w) {a : AReg}
    (hexec : exec i s = sequential i (unaryTo op .w (.addr a)) s)
    (hop : op = fun w d f => (g w d, setSZ (g w d) f)) (hi : i.wellFormed = true) :
    ∃ t, exec i s = .next t ∧ t.areg a = g 16 (s.areg a) ∧ showsSZ (t.areg a) t.flg :=
  exec_unarySZ g hexec hop ⟨hi, fun _ ha => absurd ha List.not_mem_nil⟩

end

theorem exec_abs (sz : Size) (dst : Operand) (s : State) : exec (.abs sz dst) s =
    sequential (.abs sz dst)
      (fun s => unaryTo (unAbs (drawBit s).1) sz (s.loc dst) { s with draws := s.draws + 1 }) s := rfl

section
variable {sz : Size} {dst : Operand} {s : State}

theorem neg_result (h : s.allows (.neg sz dst)) : ∃ t, exec (.neg sz dst) s = .next t ∧
    t.valueAt sz (s.loc dst) = -(readLoc sz (s.loc dst) s).1 ∧ showsSZ (t.valueAt sz (s.loc dst)) t.flg ∧
    t.flg.c = decide (t.valueAt sz (s.loc dst) = 0) ∧
    t.flg.o = decide ((readLoc sz (s.loc dst) s).1 = BitVec.intMin _) := by
  refine exec_unary (op := unNeg)
    (rel := fun d r f => r = -d ∧ showsSZ r f ∧ f.c = decide (r = 0) ∧ f.o = decide (d = BitVec.intMin _))
    (rfl : _ = execNeg sz dst s) (fun d => ?_) h
  obtain ⟨hvalue, hflags⟩ := unNeg_result (Size.bits_pos sz) d s.flg
  rw [hvalue]
  exact ⟨rfl, hflags⟩

theorem adcf_result (h : s.allows (.adcf sz dst)) : ∃ t, exec (.adcf sz dst) s = .next t ∧
    t.valueAt sz (s.loc dst) = (readLoc sz (s.loc dst) s).1 + BitVec.ofNat _ s.flg.c.toNat ∧
    showsSum (readLoc sz (s.loc dst) s).1 0 s.flg.c t.flg := by
  refine exec_unary (op := unAdcf)
    (rel := fun d r f => r = d + BitVec.ofNat _ s.flg.c.toNat ∧ showsSum d 0 s.flg.c f)
    (rfl : _ = execAdcf sz dst s) (fun d => ?_) h
  obtain ⟨hvalue, hflags⟩ := addFlags_result d 0#_ s.flg.c s.flg
  exact ⟨hvalue.trans (by rw [BitVec.add_zero]), hflags⟩

/-- The free C is drawn before the operand is read. -/
theorem abs_result (h : s.allows (.abs sz dst)) : ∃ t d, exec (.abs sz dst) s = .next t ∧
    d = (readLoc sz (s.loc dst) { s with draws := s.draws + 1 }).1 ∧
    (d ≠ BitVec.intMin _ → (t.valueAt sz (s.loc dst)).toInt = d.toInt.natAbs) ∧
    (d = BitVec.intMin _ → t.valueAt sz (s.loc dst) = d) ∧
    t.flg.o = decide (d = BitVec.intMin _) ∧ showsSZ (t.valueAt sz (s.loc dst)) t.flg := by
  have hacts : Acts (locBytes sz (s.loc dst)) s
      (unaryTo (unAbs (drawBit s).1) sz (s.loc dst) { s with draws := s.draws + 1 }) :=
    .after (draws_keeps s _) (unaryTo_acts _ sz (s.loc dst) _)
  obtain ⟨u, hu, ht⟩ := exec_completes (exec_abs sz dst s) hacts h
  obtain ⟨hvalue, hflg⟩ := unaryTo_result hu
  refine ⟨_, _, ht, rfl, ?_⟩
  rw [State.valueAt_advance, State.advance_flg, hflg, hvalue]
  refine ⟨fun hd => ?_, fun hd => ?_, unAbs_o _ (Size.bits_pos sz) _ _, unAbs_showsSZ _ _ _⟩
  · rw [unAbs_value, BitVec.toInt_abs_eq_natAbs_of_ne_intMin hd]
  · rw [unAbs_value, hd, BitVec.abs_intMin]

end

/-! Sign extensions (R349, R350). -/

/-- `EXTS.B` writes a word at the place its table gives: R0 for R0L, R1 for R1L, and memory from the byte on. -/
theorem extsTo_eq (dst : Operand) (s : State) : extsTo (s.loc dst) s =
    writeLoc .other .w (s.loc (extsDest dst)) ((readLoc .b (s.loc dst) s).1.signExtend 16)
      ((readLoc .b (s.loc dst) s).2.setFlg (setSZ ((readLoc .b (s.loc dst) s).1.signExtend 16 : Word) s.flg)) := by
  rw [← readLoc_flg .b (s.loc dst) s]
  cases dst with
  | data r => cases r <;> rfl
  | addr a => rfl
  | mem e => rfl

theorem extsTo_result {dst : Operand} {s t : State} (h : extsTo (s.loc dst) s = .next t) :
    t.valueAt .w (s.loc (extsDest dst)) = (readLoc .b (s.loc dst) s).1.signExtend 16 ∧
      showsSZ (t.valueAt .w (s.loc (extsDest dst))) t.flg := by
  rw [extsTo_eq] at h
  obtain ⟨hvalue, hflg⟩ := writeLoc_result h
  rw [hvalue, hflg]
  exact ⟨rfl, setSZ_shows _ _⟩

/-- Only R0L, R1L and memory can be the operand. -/
theorem extended_of_result {dst : Operand} {s t : State} (hdst : dst.isExtsDest = true)
    (h : t.valueAt .w (s.loc (extsDest dst)) = (readLoc .b (s.loc dst) s).1.signExtend 16 ∧
      showsSZ (t.valueAt .w (s.loc (extsDest dst))) t.flg) : extended (s.loc dst) s t := by
  cases dst with
  | data r =>
    cases r with
    | d0 => exact h
    | d2 => exact h
    | d1 => cases hdst
    | d3 => cases hdst
  | addr a => cases hdst
  | mem e => exact h

theorem exec_extsB (dst : Operand) (s : State) :
    exec (.extsB dst) s = sequential (.extsB dst) (fun s => extsTo (s.loc dst) s) s := rfl

theorem extsB_result {dst : Operand} {s : State} (h : s.allows (.extsB dst)) :
    ∃ t, exec (.extsB dst) s = .next t ∧ extended (s.loc dst) s t := by
  obtain ⟨u, hu, ht⟩ := exec_completes (exec_extsB dst s) (extsTo_acts (s.loc dst) s) h
  refine ⟨_, ht, extended_of_result h.1 ?_⟩
  rw [State.valueAt_advance, State.advance_flg]
  exact extsTo_result hu

theorem signWord_append (v : Word) : (if v.msb then 0xFFFF#16 else 0x0000#16) ++ v = v.signExtend 32 :=
  (BitVec.signExtend_eq_append_of_le (x := v) (by decide : 16 ≤ 32)).symm

theorem extsW_result (s : State) :
    ∃ t, exec .extsW s = .next t ∧ t.bank.r2 ++ t.bank.r0 = s.bank.r0.signExtend 32 := by
  refine ⟨_, (rfl : _ = execExtsW s).trans (sequential_eq_next.mpr ⟨rfl, _, rfl, rfl⟩), ?_⟩
  rw [State.advance_bank, State.setDreg16, State.setBank_bank]
  exact signWord_append s.bank.r0

/-! Additions to the stack pointer (R340, R341). -/

theorem addToSp_result (v : Word) (s : State) :
    (addToSp v s).sp = s.sp + v ∧ showsSum s.sp v false (addToSp v s).flg := by
  rw [addToSp, State.setSp_sp, State.setSp_flg, State.setFlg_flg]
  exact aluAdd_shows s.flg 16 s.sp v

theorem exec_addToSp {i : Instr} {v : Word} {s : State}
    (hexec : exec i s = sequential i (fun s => .next (addToSp v s)) s) (hi : i.wellFormed = true) :
    ∃ t, exec i s = .next t ∧ t.sp = s.sp + v ∧ showsSum s.sp v false t.flg :=
  ⟨_, hexec.trans (sequential_eq_next.mpr ⟨hi, _, rfl, rfl⟩), addToSp_result v s⟩

/-- Settles O49: an instruction with one operand leaves what its operation says of the operand; `EXTS.B` writes a word
where its byte was read; each addition to SP is the 16-bit sum with its immediate at 16 bits. -/
theorem oneOperand : Obligations.OneOperand :=
  ⟨fun _ _ _ => neg_result,
   fun sz dst s => exec_unarySZ (fun _ d => ~~~d) (rfl : _ = execNotG sz dst s) rfl,
   fun dst s => exec_unarySZ (fun _ d => ~~~d) (rfl : _ = execNotBS dst s) rfl,
   fun dst s => exec_unarySZ (fun _ d => d + 1) (rfl : _ = execIncB dst s) rfl,
   fun a s => exec_unaryAddr (fun _ d => d + 1) (rfl : _ = execIncW a s) rfl rfl,
   fun dst s => exec_unarySZ (fun _ d => d - 1) (rfl : _ = execDecB dst s) rfl,
   fun a s => exec_unaryAddr (fun _ d => d - 1) (rfl : _ = execDecW a s) rfl rfl,
   fun _ _ _ => adcf_result, fun _ _ _ => abs_result, fun _ _ => extsB_result, extsW_result,
   fun v s => exec_addToSp (rfl : _ = execAddGSp (.w v) s) rfl,
   fun v s => exec_addToSp (rfl : _ = execAddGSp (.b v) s) rfl,
   fun v s => exec_addToSp (rfl : _ = execAddQSp v s) rfl⟩

end Sys2Proof.Machine
end

section
/-! PROOFS. The sixteen decimal instructions (R381 to R397). -/

namespace Sys2Proof.Machine

/-! BCD patterns. -/

theorem decValue_bcdOf {n t : Nat} (h : t < 10 ^ n) : decValue n (bcdOf n t) = some t := by
  induction n generalizing t with
  | zero =>
    rw [Nat.lt_one_iff.mp h]
    rfl
  | succ n ih =>
    have hdiv : (bcdOf n (t / 10) * 16 + t % 10) / 16 = bcdOf n (t / 10) := by omega
    have hmod : (bcdOf n (t / 10) * 16 + t % 10) % 16 = t % 10 := by omega
    have hdigit : t % 10 ≤ 9 := by omega
    rw [bcdOf, decValue, hdiv, hmod, ih (by omega)]
    simp only [if_pos hdigit, Nat.div_add_mod']

theorem bcdOf_lt (n t : Nat) : bcdOf n t < 16 ^ n := by
  induction n generalizing t with
  | zero => exact Nat.one_pos
  | succ n ih =>
    have := ih (t / 10)
    rw [bcdOf]
    omega

theorem decValue_lt {n x t : Nat} (h : decValue n x = some t) : t < 10 ^ n := by
  induction n generalizing x t with
  | zero =>
    cases h
    decide
  | succ n ih =>
    rw [decValue] at h
    split at h
    · next u hu =>
      have := ih hu
      split at h
      · cases h
        omega
      · cases h
    · cases h

/-! Sum and difference (R381). -/

/-- The exact sum or difference of two numbers and a carry. -/
def decTotal (sub : Bool) (x y : Nat) (c : Bool) : Int :=
  if sub then (x : Int) - y - c.toNat else (x : Int) + y + c.toNat

section
variable {sub c : Bool} {n w x y : Nat} {d v : BitVec w} {f : Flg}

/-- On two patterns the result is the pattern of the exact result modulo `10 ^ n`. -/
theorem decArith_result (hw : 16 ^ n ≤ 2 ^ w) (hx : decValue n d.toNat = some x) (hy : decValue n v.toNat = some y) :
    ∃ r g, decArith sub n d v c f = some (r, g) ∧
      decValue n r.toNat = some ((decTotal sub x y c).emod (10 ^ n : Nat)).toNat ∧
      g.c = (if sub then decide (decTotal sub x y c ≥ 0)
        else decide (decTotal sub x y c > ((10 ^ n : Nat) : Int) - 1)) ∧
      showsSZ r g := by
  have hpos : (0 : Int) < (10 ^ n : Nat) := by exact_mod_cast Nat.pow_pos (by decide)
  have hlt : ((decTotal sub x y c).emod (10 ^ n : Nat)).toNat < 10 ^ n := by
    have := Int.emod_lt_of_pos (decTotal sub x y c) hpos
    exact (Int.toNat_lt (Int.emod_nonneg _ hpos.ne')).mpr this
  refine ⟨_, _, by rw [decArith, hx, hy], ?_, rfl, setSZ_shows _ _⟩
  rw [BitVec.toNat_ofNat, Nat.mod_eq_of_lt ((bcdOf_lt _ _).trans_le hw)]
  exact decValue_bcdOf hlt

variable {r : BitVec w} {g : Flg}

/-- Where the decimal sum goes, there is the BCD sum with its flags. -/
theorem decSum_of_decArith (hw : 16 ^ n ≤ 2 ^ w)
    (h : ∀ q e, decArith false n d v c f = some (q, e) → r = q ∧ g = e) : decSum n d v c r g := by
  intro x y hx hy
  obtain ⟨q, e, hqe, hvalue, hcarry, hsz⟩ := decArith_result (sub := false) (c := c) (f := f) hw hx hy
  obtain ⟨rfl, rfl⟩ := h q e hqe
  have htotal : decTotal false x y c = ((x + y + c.toNat : Nat) : Int) := by simp [decTotal]
  have hxlt := decValue_lt hx
  refine ⟨?_, ?_, hsz⟩
  · rw [hvalue, htotal]
    rfl
  · rw [hcarry, htotal]
    exact decide_eq_decide.mpr (by omega)

/-- The statement's difference has two moduli added, so that it is taken among natural numbers. -/
theorem decDiff_of_decArith (hw : 16 ^ n ≤ 2 ^ w)
    (h : ∀ q e, decArith true n d v c f = some (q, e) → r = q ∧ g = e) : decDiff n d v c r g := by
  intro x y hx hy
  obtain ⟨q, e, hqe, hvalue, hcarry, hsz⟩ := decArith_result (sub := true) (c := c) (f := f) hw hx hy
  obtain ⟨rfl, rfl⟩ := h q e hqe
  have hylt := decValue_lt hy
  have hcarry_le := c.toNat_le
  have htotal : decTotal true x y c = (x : Int) - y - c.toNat := rfl
  have hmoduli : ((x + 10 ^ n + 10 ^ n - y - c.toNat : Nat) : Int) =
      decTotal true x y c + (10 ^ n : Nat) + (10 ^ n : Nat) := by omega
  have hmod : (decTotal true x y c).emod (10 ^ n : Nat) =
      ((x + 10 ^ n + 10 ^ n - y - c.toNat : Nat) : Int) % (10 ^ n : Nat) := by
    rw [hmoduli, Int.add_emod_right, Int.add_emod_right]
    rfl
  refine ⟨?_, ?_, hsz⟩
  · rw [hvalue, hmod]
    rfl
  · rw [hcarry, htotal]
    exact decide_eq_decide.mpr (by omega)

end

/-! R0L and R0. -/

section
variable {sub c : Bool} {s : State}

theorem decByte_of_some {v r : Byte} {g : Flg} (h : decArith sub 2 (s.dreg8 .d0) v c s.flg = some (r, g)) :
    (decByte sub v c s).dreg8 .d0 = r ∧ (decByte sub v c s).flg = g := by
  rw [decByte, h]
  exact ⟨State.setDreg8_dreg8 _ .d0 r, rfl⟩

theorem decWord_of_some {v r : Word} {g : Flg} (h : decArith sub 4 (s.dreg16 .d0) v c s.flg = some (r, g)) :
    (decWord sub v c s).dreg16 .d0 = r ∧ (decWord sub v c s).flg = g := by
  rw [decWord, h]
  exact ⟨State.setDreg16_dreg16 _ .d0 r, rfl⟩

end

/-- An instruction that only computes a state completes in every state; its end only moves `pc` on. -/
theorem exec_computes {i : Instr} {body : State → Result} {s u : State} {post : State → Prop}
    (hexec : exec i s = sequential i body s) (hbody : body s = .next u) (hi : i.wellFormed = true)
    (h : ∀ n, post (u.advance n)) : ∃ t, exec i s = .next t ∧ post t :=
  ⟨_, hexec.trans (sequential_eq_next.mpr ⟨hi, u, hbody, rfl⟩), h _⟩

section
variable {i : Instr} {body : State → Result} {s : State} {c : Bool}

theorem exec_decByteSum {v : Byte} (hexec : exec i s = sequential i body s)
    (hbody : body s = .next (decByte false v c s)) (hi : i.wellFormed = true) :
    ∃ t, exec i s = .next t ∧ decSum 2 (s.dreg8 .d0) v c (t.dreg8 .d0) t.flg :=
  exec_computes hexec hbody hi fun _ => decSum_of_decArith (by decide) fun _ _ => decByte_of_some

theorem exec_decWordSum {v : Word} (hexec : exec i s = sequential i body s)
    (hbody : body s = .next (decWord false v c s)) (hi : i.wellFormed = true) :
    ∃ t, exec i s = .next t ∧ decSum 4 s.bank.r0 v c t.bank.r0 t.flg :=
  exec_computes hexec hbody hi fun _ => decSum_of_decArith (by decide) fun _ _ => decWord_of_some

theorem exec_decByteDiff {v : Byte} (hexec : exec i s = sequential i body s)
    (hbody : body s = .next (decByte true v c s)) (hi : i.wellFormed = true) :
    ∃ t, exec i s = .next t ∧ decDiff 2 (s.dreg8 .d0) v c (t.dreg8 .d0) t.flg :=
  exec_computes hexec hbody hi fun _ => decDiff_of_decArith (by decide) fun _ _ => decByte_of_some

theorem exec_decWordDiff {v : Word} (hexec : exec i s = sequential i body s)
    (hbody : body s = .next (decWord true v c s)) (hi : i.wellFormed = true) :
    ∃ t, exec i s = .next t ∧ decDiff 4 s.bank.r0 v c t.bank.r0 t.flg :=
  exec_computes hexec hbody hi fun _ => decDiff_of_decArith (by decide) fun _ _ => decWord_of_some

end

/-- Settles O52: the forms differ in the width, in the operand, and in the carry or borrow they take. -/
theorem decimalResult : Obligations.DecimalResult :=
  ⟨fun v s => exec_decByteSum (rfl : _ = execDaddBImm v s) rfl rfl,
   fun v s => exec_decWordSum (rfl : _ = execDaddWImm v s) rfl rfl,
   fun s => exec_decByteSum (rfl : _ = execDaddBReg s) rfl rfl,
   fun s => exec_decWordSum (rfl : _ = execDaddWReg s) rfl rfl,
   fun v s => exec_decByteSum (rfl : _ = execDadcBImm v s) rfl rfl,
   fun v s => exec_decWordSum (rfl : _ = execDadcWImm v s) rfl rfl,
   fun s => exec_decByteSum (rfl : _ = execDadcBReg s) rfl rfl,
   fun s => exec_decWordSum (rfl : _ = execDadcWReg s) rfl rfl,
   fun v s => exec_decByteDiff (rfl : _ = execDsubBImm v s) rfl rfl,
   fun v s => exec_decWordDiff (rfl : _ = execDsubWImm v s) rfl rfl,
   fun s => exec_decByteDiff (rfl : _ = execDsubBReg s) rfl rfl,
   fun s => exec_decWordDiff (rfl : _ = execDsubWReg s) rfl rfl,
   fun v s => exec_decByteDiff (rfl : _ = execDsbbBImm v s) rfl rfl,
   fun v s => exec_decWordDiff (rfl : _ = execDsbbWImm v s) rfl rfl,
   fun s => exec_decByteDiff (rfl : _ = execDsbbBReg s) rfl rfl,
   fun s => exec_decWordDiff (rfl : _ = execDsbbWReg s) rfl rfl⟩

end Sys2Proof.Machine
end

section
/-! PROOFS. Multiplication and division (R398 to R409). -/

namespace Sys2Proof.Machine

/-! The exact product (R405). -/

/-- The product of two signed numbers of `w` bits needs `2 w - 1` bits, so twice the width holds it. -/
theorem mulExact_toInt {w : Nat} (hw : 0 < w) (a b : BitVec w) : (mulExact true a b).toInt = a.toInt * b.toInt := by
  have hlow : -2 ^ (w * 2 - 2) ≤ a.toInt * b.toInt := BitVec.le_toInt_mul_toInt
  have hhigh : a.toInt * b.toInt ≤ 2 ^ (w * 2 - 2) := BitVec.toInt_mul_toInt_le
  have hpow : (2 : Int) ^ (w * 2 - 2) < 2 ^ (w + w - 1) := pow_lt_pow_right₀ (by decide) (by omega)
  exact BitVec.toInt_ofInt_eq_self (by omega) (by omega) (by omega)

theorem mulExact_toNat {w : Nat} (a b : BitVec w) : (mulExact false a b).toNat = a.toNat * b.toNat := by
  have hlt : a.toNat * b.toNat < 2 ^ (w + w) := Nat.mul_two w ▸ BitVec.toNat_mul_toNat_lt
  exact (BitVec.toNat_ofNat ..).trans (Nat.mod_eq_of_lt hlt)

/-- A product goes to the place that the table of R405 gives for the destination. -/
theorem mulTo_result (signed : Bool) {z : Size} {v : BitVec (Size.bits z)} {l : Loc} {s : State}
    (hw : ∀ a ∈ productBytes z l, s.writable a = true) :
    ∃ t, mulTo signed z v l s = .next t ∧ t.productAt z l = mulExact signed (readLoc z l s).1 v := by
  have hwritable (a : Addr) (ha : a ∈ productBytes z l) : (readLoc z l s).2.writable a = true := by
    rw [(readLoc_touches z l s).writable]
    exact hw a ha
  cases z <;> cases l
  case b.data r =>
    cases r with
    | d2 => exact ⟨_, rfl, State.setDreg16_dreg16 _ .d1 _⟩
    | _ => exact ⟨_, rfl, State.setDreg16_dreg16 _ .d0 _⟩
  case b.addr r => exact ⟨_, rfl, State.setAreg_areg _ .a0 _⟩
  case w.data r =>
    cases r with
    | d1 => exact ⟨_, rfl, State.setPair_pair _ .r3r1 _⟩
    | _ => exact ⟨_, rfl, State.setPair_pair _ .r2r0 _⟩
  case w.addr r => exact ⟨_, rfl, State.setPair_pair _ .a1a0 _⟩
  case b.mem a =>
    obtain ⟨t, ht, hlow, hhigh, -⟩ := writeWord_result (k := .other)
      (mulExact (w := 8) signed (readLoc .b (.mem a) s).1 v) (hwritable a (by simp [productBytes]))
      (hwritable (a + 1) (by simp [productBytes]))
    refine ⟨t, ht, ?_⟩
    rw [State.productAt, wordAt, hlow, hhigh]
    exact hiByte_loByte _
  case w.mem a =>
    obtain ⟨t, ht, hlow, hhigh, -⟩ := write32_result (k := .other)
      (mulExact (w := 16) signed (readLoc .w (.mem a) s).1 v) (hwritable a (by simp [productBytes]))
      (hwritable (a + 1) (by simp [productBytes])) (hwritable (a + 2) (by simp [productBytes]))
      (hwritable (a + 2 + 1) (by simp [productBytes]))
    refine ⟨t, ht, ?_⟩
    rw [State.productAt, hlow, hhigh]
    exact extractLsb'_halves _

theorem State.productAt_advance (s : State) (n : Nat) (z : Size) (l : Loc) :
    (s.advance n).productAt z l = s.productAt z l := by
  cases z <;> cases l <;> rfl

section
variable {i : Instr} {body : State → Result} {s : State} (p : TwoOperands)

/-- A multiplication whose store can be made completes with the product at its place. -/
theorem exec_mulTo {signed : Bool} (hexec : exec i s = sequential i body s)
    (hbody : body s = mulTo signed p.z p.v p.l p.s) (hread : Touches [] s p.s)
    (h : i.wellFormed = true ∧ ∀ a ∈ productBytes p.z p.l, s.writable a = true) :
    ∃ t, exec i s = .next t ∧ t.productAt p.z p.l = mulExact signed (readLoc p.z p.l p.s).1 p.v := by
  obtain ⟨hi, hw⟩ := h
  obtain ⟨u, hu, hproduct⟩ := mulTo_result signed (v := p.v) fun a ha => (hread.writable a).trans (hw a ha)
  exact ⟨u.advance i.length, hexec.trans (sequential_eq_next.mpr ⟨hi, u, hbody.trans hu, rfl⟩),
    (State.productAt_advance ..).trans hproduct⟩

theorem exec_mul (hexec : exec i s = sequential i body s) (hbody : body s = mulTo true p.z p.v p.l p.s)
    (hread : Touches [] s p.s) (h : i.wellFormed = true ∧ ∀ a ∈ productBytes p.z p.l, s.writable a = true) :
    ∃ t, exec i s = .next t ∧ (t.productAt p.z p.l).toInt = (readLoc p.z p.l p.s).1.toInt * p.v.toInt := by
  obtain ⟨t, ht, hproduct⟩ := exec_mulTo p hexec hbody hread h
  exact ⟨t, ht, by rw [hproduct, mulExact_toInt (Size.bits_pos p.z)]⟩

theorem exec_mulu (hexec : exec i s = sequential i body s) (hbody : body s = mulTo false p.z p.v p.l p.s)
    (hread : Touches [] s p.s) (h : i.wellFormed = true ∧ ∀ a ∈ productBytes p.z p.l, s.writable a = true) :
    ∃ t, exec i s = .next t ∧ (t.productAt p.z p.l).toNat = (readLoc p.z p.l p.s).1.toNat * p.v.toNat := by
  obtain ⟨t, ht, hproduct⟩ := exec_mulTo p hexec hbody hread h
  exact ⟨t, ht, by rw [hproduct, mulExact_toNat]⟩

end

/-- Settles O50: the product is exact because twice the width holds it, and the model's table of places is the
statement's. -/
theorem multiplyResult : Obligations.MultiplyResult :=
  ⟨fun v dst s h => exec_mul (immTo v dst s) rfl rfl (.refl _ _) h,
   fun sz src dst s h =>
     exec_mul (srcTo sz src dst s) (rfl : _ = execMulSrc sz src dst s) rfl (readLoc_touches _ _ _) h,
   fun v dst s h => exec_mulu (immTo v dst s) rfl rfl (.refl _ _) h,
   fun sz src dst s h =>
     exec_mulu (srcTo sz src dst s) (rfl : _ = execMuluSrc sz src dst s) rfl (readLoc_touches _ _ _) h⟩

/-! Quotient and remainder (R398). -/

theorem fits_iff_not_outOfRange {w : Nat} {x : Int} : fits w x ↔ ¬ outOfRange w x = true := by
  simp only [fits, outOfRange, Bool.or_eq_true, decide_eq_true_eq]
  omega

theorem toInt_ofInt_of_fits {w : Nat} (hw : 0 < w) {x : Int} (h : fits w x) : (BitVec.ofInt w x).toInt = x := by
  obtain ⟨hlow, hhigh⟩ := h
  push_cast at hlow hhigh
  exact BitVec.toInt_ofInt_eq_self hw hlow (by omega)

/-- What is smaller than a divisor of `w` bits fits in `w` bits. -/
theorem fits_of_natAbs_lt {w : Nat} {v : BitVec w} {x : Int} (h : x.natAbs < v.toInt.natAbs) : fits w x := by
  have hlow := BitVec.le_toInt v
  have hhigh := BitVec.toInt_lt (x := v)
  unfold fits
  push_cast
  omega

theorem natAbs_tmod_lt (a : Int) {b : Int} (hb : b ≠ 0) : (a.tmod b).natAbs < b.natAbs := by
  rw [Int.natAbs_tmod]
  exact Nat.mod_lt _ (Int.natAbs_pos.mpr hb)

theorem natAbs_fmod_lt (a : Int) {b : Int} (hb : b ≠ 0) : (a.fmod b).natAbs < b.natAbs := by
  have hlow := Int.emod_nonneg a hb
  have hhigh := Int.emod_lt a hb
  have hdvd := Int.emod_pos_of_not_dvd (a := b) (b := a)
  rw [Int.fmod_eq_emod]
  split <;> omega

/-- An unsigned quotient and its remainder, where the divisor is not 0 and the quotient fits. -/
theorem divide_divu {w : Nat} (n : BitVec (w + w)) (v : BitVec w) : divide .divu n v =
    if v.toNat ≠ 0 ∧ n.toNat / v.toNat < 2 ^ w then
      some (BitVec.ofNat w (n.toNat / v.toNat), BitVec.ofNat w (n.toNat % v.toNat))
    else none := by
  have hzero : v = 0#w ↔ v.toNat = 0 := BitVec.toNat_eq
  have hpos : 0 < 2 ^ w := Nat.two_pow_pos w
  by_cases hv : v.toNat = 0
  · simp [divide, hzero, hv]
  · have hfit : n.toNat / v.toNat > 2 ^ w - 1 ↔ ¬ n.toNat / v.toNat < 2 ^ w := by omega
    simp only [divide, hzero, hv, hfit, if_false, ite_not, ne_eq, not_false_iff, true_and]

/-- How a signed division rounds: the quotient and the remainder that goes with it. -/
structure Rounding (k : DivKind) (quot rem : Int → Int → Int) : Prop where
  divide_eq : ∀ {w : Nat} (n : BitVec (w + w)) {v : BitVec w}, v ≠ 0#w → divide k n v =
    if outOfRange w (quot n.toInt v.toInt) then none
    else some (BitVec.ofInt w (quot n.toInt v.toInt), BitVec.ofInt w (rem n.toInt v.toInt))
  rem_lt : ∀ (a : Int) {b : Int}, b ≠ 0 → (rem a b).natAbs < b.natAbs

theorem rounding_div : Rounding .div Int.tdiv Int.tmod where
  divide_eq n v hv := by simp only [divide, if_neg hv, Int.tmod_def, Int.mul_comm]
  rem_lt := natAbs_tmod_lt

theorem rounding_divx : Rounding .divx Int.fdiv Int.fmod where
  divide_eq n v hv := by simp only [divide, if_neg hv, Int.fmod_def, Int.mul_comm]
  rem_lt := natAbs_fmod_lt

section
variable {k : DivKind} {quot rem : Int → Int → Int} {w : Nat} {n : BitVec (w + w)} {v : BitVec w}

/-- The remainder needs no bound of its own: it is smaller than the divisor. -/
theorem Rounding.divide_some (hr : Rounding k quot rem) (hw : 0 < w)
    (h : v.toInt ≠ 0 ∧ fits w (quot n.toInt v.toInt)) :
    ∃ q r, divide k n v = some (q, r) ∧ q.toInt = quot n.toInt v.toInt ∧ r.toInt = rem n.toInt v.toInt := by
  obtain ⟨hv, hfits⟩ := h
  have hne : v ≠ 0#w := fun he => hv (by rw [he, BitVec.toInt_zero])
  refine ⟨_, _, (hr.divide_eq n hne).trans (if_neg (fits_iff_not_outOfRange.mp hfits)),
    toInt_ofInt_of_fits hw hfits, toInt_ofInt_of_fits hw (fits_of_natAbs_lt (hr.rem_lt _ hv))⟩

theorem Rounding.divide_none (hr : Rounding k quot rem)
    (h : ¬(v.toInt ≠ 0 ∧ fits w (quot n.toInt v.toInt))) : divide k n v = none := by
  by_cases hv : v = 0#w
  · exact if_pos hv
  · have hne : v.toInt ≠ 0 := fun he => hv (BitVec.eq_of_toInt_eq (he.trans BitVec.toInt_zero.symm))
    rw [hr.divide_eq n hv, if_pos]
    by_contra hout
    exact h ⟨hne, fits_iff_not_outOfRange.mpr hout⟩

end

/-! The registers of a division (R398). -/

section
variable {k : DivKind} {z : Size} {v : BitVec (Size.bits z)} {s : State}

theorem divBy_of_some {q r : BitVec (Size.bits z)} (h : divide k (s.dividend z) v = some (q, r)) :
    (divBy k z v s).flg.o = false ∧ (divBy k z v s).quotient z = q ∧ (divBy k z v s).remainder z = r := by
  cases z with
  | b =>
    replace h : divide (w := 8) k s.bank.r0 v = some (q, r) := h
    simp only [divBy, h]
    have hr0 : ((s.setFlg { s.flg with o := false }).setDreg16 .d0 (r ++ q)).bank.r0 = r ++ q :=
      State.setDreg16_dreg16 _ .d0 _
    exact ⟨rfl, (congrArg loByte hr0).trans (loByte_append r q), (congrArg hiByte hr0).trans (hiByte_append r q)⟩
  | w =>
    replace h : divide (w := 16) k (s.pair .r2r0) v = some (q, r) := h
    simp only [divBy, h]
    exact ⟨rfl, (congrArg Bank.r0 (State.setBank_bank _ _)).trans BitVec.extractLsb'_append_eq_right,
      (congrArg Bank.r2 (State.setBank_bank _ _)).trans BitVec.extractLsb'_append_eq_left⟩

theorem divBy_of_none (h : divide k (s.dividend z) v = none) : (divBy k z v s).flg.o = true := by
  cases z with
  | b =>
    replace h : divide (w := 8) k s.bank.r0 v = none := h
    rw [divBy, h]
    rfl
  | w =>
    replace h : divide (w := 16) k (s.pair .r2r0) v = none := h
    rw [divBy, h]
    rfl

end

theorem State.dividend_eq_of_bank {s t : State} (h : t.bank = s.bank) (z : Size) : t.dividend z = s.dividend z := by
  cases z <;> simp only [State.dividend, h]

/-- What `DIV` and `DIVX` leave: the quotient with its remainder, or O (R398). -/
def divided (quot rem : Int → Int → Int) (z : Size) (v : BitVec (Size.bits z)) (s t : State) : Prop :=
  (v.toInt ≠ 0 ∧ fits (Size.bits z) (quot (s.dividend z).toInt v.toInt) →
    dividesTo z (quot (s.dividend z).toInt v.toInt) (rem (s.dividend z).toInt v.toInt) t) ∧
  (¬(v.toInt ≠ 0 ∧ fits (Size.bits z) (quot (s.dividend z).toInt v.toInt)) → t.flg.o = true)

section
variable {z : Size} {s u : State}

theorem divBy_dividedU (h : u.bank = s.bank) (v : BitVec (Size.bits z)) : dividedU z v s (divBy .divu z v u) := by
  have hdivide := divide_divu (u.dividend z) v
  rw [dividedU, ← State.dividend_eq_of_bank h]
  split
  · next hfits =>
    have hrem : (u.dividend z).toNat % v.toNat < 2 ^ Size.bits z :=
      (Nat.mod_lt _ (Nat.pos_of_ne_zero hfits.1)).trans v.isLt
    rw [if_pos hfits] at hdivide
    obtain ⟨ho, hq, hr⟩ := divBy_of_some hdivide
    rw [hq, hr, BitVec.toNat_ofNat, BitVec.toNat_ofNat, Nat.mod_eq_of_lt hfits.2, Nat.mod_eq_of_lt hrem]
    exact ⟨ho, rfl, rfl⟩
  · next hfits =>
    rw [if_neg hfits] at hdivide
    exact divBy_of_none hdivide

theorem Rounding.divBy_divided {k : DivKind} {quot rem : Int → Int → Int} (hk : Rounding k quot rem)
    (h : u.bank = s.bank) (v : BitVec (Size.bits z)) : divided quot rem z v s (divBy k z v u) := by
  rw [divided, ← State.dividend_eq_of_bank h]
  refine ⟨fun hfits => ?_, fun hfits => divBy_of_none (hk.divide_none hfits)⟩
  obtain ⟨q, r, hqr, hq, hr⟩ := hk.divide_some (Size.bits_pos z) hfits
  obtain ⟨ho, rfl, rfl⟩ := divBy_of_some hqr
  exact ⟨ho, hq, hr⟩

end

section
variable {i : Instr} {body : State → Result} {z : Size} {v : BitVec (Size.bits z)} {s u : State}

theorem exec_divu (hexec : exec i s = sequential i body s) (hbody : body s = .next (divBy .divu z v u))
    (hread : u.bank = s.bank) (hi : i.wellFormed = true) : ∃ t, exec i s = .next t ∧ dividedU z v s t :=
  exec_computes hexec hbody hi fun _ => divBy_dividedU hread v

theorem exec_div (hexec : exec i s = sequential i body s) (hbody : body s = .next (divBy .div z v u))
    (hread : u.bank = s.bank) (hi : i.wellFormed = true) : ∃ t, exec i s = .next t ∧ dividedT z v s t :=
  exec_computes hexec hbody hi fun _ => rounding_div.divBy_divided hread v

theorem exec_divx (hexec : exec i s = sequential i body s) (hbody : body s = .next (divBy .divx z v u))
    (hread : u.bank = s.bank) (hi : i.wellFormed = true) : ∃ t, exec i s = .next t ∧ dividedF z v s t :=
  exec_computes hexec hbody hi fun _ => rounding_divx.divBy_divided hread v

end

/-- Settles O51: each kind of division is its quotient and remainder where the quotient fits, and reading the divisor
leaves the dividend as it is. -/
theorem divideResult : Obligations.DivideResult :=
  ⟨fun v s => exec_divu (rfl : _ = execDivuImm v s) rfl rfl rfl,
   fun sz src s => exec_divu (rfl : _ = execDivuSrc sz src s) rfl (readLoc_touches _ _ _).bank rfl,
   fun v s => exec_div (rfl : _ = execDivImm v s) rfl rfl rfl,
   fun sz src s => exec_div (rfl : _ = execDivSrc sz src s) rfl (readLoc_touches _ _ _).bank rfl,
   fun v s => exec_divx (rfl : _ = execDivxImm v s) rfl rfl rfl,
   fun sz src s => exec_divx (rfl : _ = execDivxSrc sz src s) rfl (readLoc_touches _ _ _).bank rfl⟩

end Sys2Proof.Machine
end

section
/-! PROOFS. One iteration of the sum of products (R410, R480). -/

namespace Sys2Proof.Machine

/-! The accumulator (R410). -/

theorem rmpaAcc_eq (z : Size) (s : State) : rmpaAcc z s = (s.accumulator z).toInt := by cases z <;> rfl

theorem setRmpaAcc_accumulator (z : Size) (v : Int) (s : State) :
    (setRmpaAcc z v s).accumulator z = BitVec.ofInt _ v := by
  cases z
  · exact State.setDreg16_dreg16 s .d0 _
  · exact State.setPair_pair s .r2r0 _

/-- Writing the accumulator leaves the pointers and the count. -/
theorem setRmpaAcc_bank (z : Size) (v : Int) (s : State) : (setRmpaAcc z v s).bank.a0 = s.bank.a0 ∧
    (setRmpaAcc z v s).bank.a1 = s.bank.a1 ∧ (setRmpaAcc z v s).bank.r3 = s.bank.r3 := by
  cases z <;> simp [setRmpaAcc, State.setDreg16, State.setPair]

theorem setRmpaAcc_flg (z : Size) (v : Int) (s : State) : (setRmpaAcc z v s).flg = s.flg := by cases z <;> rfl

theorem setRmpaAcc_pc (z : Size) (v : Int) (s : State) : (setRmpaAcc z v s).pc = s.pc := by cases z <;> rfl

/-! The pointers and the count (R410). -/

/-- New pointers and count. -/
def State.setRmpaRegs (s : State) (a0 a1 r3 : Word) : State :=
  s.setBank { s.bank with a0 := a0, a1 := a1, r3 := r3 }

theorem State.setRmpaRegs_bank (s : State) (a0 a1 r3 : Word) :
    (s.setRmpaRegs a0 a1 r3).bank = { s.bank with a0 := a0, a1 := a1, r3 := r3 } := State.setBank_bank _ _

/-- R3 is no part of the accumulator, which is R0 or R2R0. -/
theorem State.setRmpaRegs_accumulator (s : State) (a0 a1 r3 : Word) (z : Size) :
    (s.setRmpaRegs a0 a1 r3).accumulator z = s.accumulator z := by
  cases z <;> simp only [State.accumulator, State.dividend, State.setRmpaRegs_bank]

/-! One iteration. -/

/-- The state after the two factors are read. -/
def State.rmpaRead (z : Size) (s : State) : State :=
  (readMem z (near s.bank.a1) (readMem z (near s.bank.a0) s).2).2

theorem State.rmpaRead_touches (z : Size) (s : State) : Touches [] s (s.rmpaRead z) :=
  Touches.trans (l := []) (m := []) (readMem_touches z _ s) (readMem_touches z _ _)

/-- The exact sum: the accumulator and the product of the elements at A0 and A1. -/
def State.rmpaSum (z : Size) (s : State) : Int :=
  (s.accumulator z).toInt + (readMem z (near s.bank.a0) s).1.toInt *
    (readMem z (near s.bank.a1) (readMem z (near s.bank.a0) s).2).1.toInt

/-- The state after the sum is written. -/
def State.rmpaSummed (z : Size) (s : State) : State := setRmpaAcc z (s.rmpaSum z) (s.rmpaRead z)

section
variable {z : Size} {s : State}

theorem State.rmpaSummed_accumulator : (s.rmpaSummed z).accumulator z = BitVec.ofInt _ (s.rmpaSum z) :=
  setRmpaAcc_accumulator z _ _

theorem State.rmpaSummed_bank : (s.rmpaSummed z).bank.a0 = s.bank.a0 ∧ (s.rmpaSummed z).bank.a1 = s.bank.a1 ∧
    (s.rmpaSummed z).bank.r3 = s.bank.r3 := by
  rw [← (s.rmpaRead_touches z).bank]
  exact setRmpaAcc_bank z _ _

theorem State.rmpaSummed_flg : (s.rmpaSummed z).flg = s.flg :=
  (setRmpaAcc_flg z _ _).trans (s.rmpaRead_touches z).flg

theorem State.rmpaSummed_pc : (s.rmpaSummed z).pc = s.pc :=
  (setRmpaAcc_pc z _ _).trans (s.rmpaRead_touches z).pc

end

/-- The state after a sum outside the range, before `pc` moves on: pointers and count are free (I9). -/
def State.rmpaOverflowed (z : Size) (s : State) : State :=
  let t := s.rmpaSummed z
  { (t.setRmpaRegs (Config.freeVal 16 t.draws) (Config.freeVal 16 (t.draws + 1))
      (Config.freeVal 16 (t.draws + 2))).setFlg { t.flg with o := true } with draws := t.draws + 3 }

/-- The state after a sum inside the range, before O and `pc` are settled. -/
def State.rmpaMoved (z : Size) (s : State) : State :=
  let t := s.rmpaSummed z
  t.setRmpaRegs (t.bank.a0 + elem z) (t.bank.a1 + elem z) (t.bank.r3 - 1)

/-- The state after the last iteration, before `pc` moves on. -/
def State.rmpaEnded (z : Size) (s : State) : State := (s.rmpaMoved z).setFlg { (s.rmpaMoved z).flg with o := false }

section
variable {z : Size} {s : State}

theorem State.rmpaOverflowed_accumulator : (s.rmpaOverflowed z).accumulator z = BitVec.ofInt _ (s.rmpaSum z) := by
  have hbank : (s.rmpaOverflowed z).bank = ((s.rmpaSummed z).setRmpaRegs ..).bank := State.setFlg_bank rfl
  rw [State.accumulator, State.dividend_eq_of_bank hbank]
  exact (State.setRmpaRegs_accumulator ..).trans State.rmpaSummed_accumulator

theorem State.rmpaMoved_accumulator : (s.rmpaMoved z).accumulator z = BitVec.ofInt _ (s.rmpaSum z) :=
  (State.setRmpaRegs_accumulator ..).trans State.rmpaSummed_accumulator

theorem State.rmpaMoved_bank : (s.rmpaMoved z).bank.a0 = s.bank.a0 + elem z ∧
    (s.rmpaMoved z).bank.a1 = s.bank.a1 + elem z ∧ (s.rmpaMoved z).bank.r3 = s.bank.r3 - 1 := by
  obtain ⟨h0, h1, h3⟩ := State.rmpaSummed_bank (z := z) (s := s)
  rw [State.rmpaMoved, State.setRmpaRegs_bank, h0, h1, h3]
  exact ⟨rfl, rfl, rfl⟩

theorem State.rmpaEnded_bank : (s.rmpaEnded z).bank = (s.rmpaMoved z).bank := State.setFlg_bank rfl

theorem rmpaStep_zero {len : Nat} (h : s.bank.r3 = 0#16) : rmpaStep z len s = s.advance len := if_pos h

theorem rmpaStep_nonzero {len : Nat} (h : s.bank.r3 ≠ 0#16) : rmpaStep z len s =
    if outOfRange (2 * Size.bits z) (s.rmpaSum z) then (s.rmpaOverflowed z).advance len
    else if s.bank.r3 = 1#16 then (s.rmpaEnded z).advance len
    else (s.rmpaMoved z).stay len := by
  obtain ⟨-, -, hr3⟩ := State.rmpaSummed_bank (z := z) (s := s)
  rw [← hr3, rmpaStep, if_neg h]
  simp only [rmpaAcc_eq]
  rfl

theorem rmpaStep_overflow {len : Nat} (h : s.bank.r3 ≠ 0#16) (hout : ¬ fits (2 * Size.bits z) (s.rmpaSum z)) :
    rmpaStep z len s = (s.rmpaOverflowed z).advance len := by
  rw [fits_iff_not_outOfRange, not_not] at hout
  rw [rmpaStep_nonzero h, if_pos hout]

/-- A sum inside the range moves the pointers and the count; the last iteration clears O and ends the instruction. -/
theorem rmpaStep_fits (h : s.bank.r3 ≠ 0#16) (hfits : fits (2 * Size.bits z) (s.rmpaSum z)) :
    (rmpaStep z 2 s).bank = (s.rmpaMoved z).bank ∧ iterated (s.bank.r3 == 1#16) s (rmpaStep z 2 s) ∧
      (rmpaStep z 2 s).flg.o = if s.bank.r3 = 1#16 then false else s.flg.o := by
  rw [rmpaStep_nonzero h, if_neg (fits_iff_not_outOfRange.mp hfits), iterated]
  by_cases hlast : s.bank.r3 = 1#16
  · simp only [hlast, if_true, beq_self_eq_true]
    exact ⟨State.rmpaEnded_bank, congrArg (· + 2) State.rmpaSummed_pc, rfl⟩
  · simp only [hlast, if_false, beq_iff_eq]
    exact ⟨rfl, State.rmpaSummed_pc, congrArg Flg.o State.rmpaSummed_flg⟩

/-- On every path the accumulator is the sum, truncated. -/
theorem rmpaStep_accumulator (h : s.bank.r3 ≠ 0#16) :
    (rmpaStep z 2 s).accumulator z = BitVec.ofInt _ (s.rmpaSum z) := by
  by_cases hfits : fits (2 * Size.bits z) (s.rmpaSum z)
  · exact (State.dividend_eq_of_bank (rmpaStep_fits h hfits).1 z).trans State.rmpaMoved_accumulator
  · rw [rmpaStep_overflow h hfits]
    exact State.rmpaOverflowed_accumulator

end

theorem exec_rmpa (sz : Size) (s : State) : exec (.rmpa sz) s = .next (rmpaStep sz 2 s) := rfl

theorem rmpa_iteration {sz : Size} {s : State} (h : s.bank.r3 ≠ 0#16) :
    ∃ t acc, exec (.rmpa sz) s = .next t ∧
    acc = (s.accumulator sz).toInt + (readMem sz (near s.bank.a0) s).1.toInt *
      (readMem sz (near s.bank.a1) (readMem sz (near s.bank.a0) s).2).1.toInt ∧
    t.accumulator sz = BitVec.ofInt _ acc ∧
    (¬ fits (2 * Size.bits sz) acc → t.flg.o = true ∧ t.pc = s.pc + 2) ∧
    (fits (2 * Size.bits sz) acc → t.bank.a0 = s.bank.a0 + elem sz ∧ t.bank.a1 = s.bank.a1 + elem sz ∧
      t.bank.r3 = s.bank.r3 - 1 ∧ iterated (s.bank.r3 == 1#16) s t ∧
      t.flg.o = if s.bank.r3 = 1#16 then false else s.flg.o) := by
  refine ⟨_, s.rmpaSum sz, exec_rmpa sz s, rfl, rmpaStep_accumulator h, fun hout => ?_, fun hfits => ?_⟩
  · rw [rmpaStep_overflow h hout]
    exact ⟨rfl, congrArg (· + 2) State.rmpaSummed_pc⟩
  · obtain ⟨hbank, hpc, ho⟩ := rmpaStep_fits h hfits
    obtain ⟨h0, h1, h3⟩ := State.rmpaMoved_bank (z := sz) (s := s)
    rw [← hbank] at h0 h1 h3
    exact ⟨h0, h1, h3, hpc, ho⟩

/-- Settles O53: with a count the sum is written first, and then it decides between the overflow, the last iteration
and the move to the next one. -/
theorem rmpaIteration : Obligations.RmpaIteration :=
  ⟨fun sz s h => (exec_rmpa sz s).trans (congrArg _ (rmpaStep_zero h)), fun _ _ => rmpa_iteration⟩

end Sys2Proof.Machine
end

section
/-! PROOFS. Jumps (R440 to R450), `ADJNZ` (R457, R458), calls (R451 to R455), and `RTS` (R456). -/

namespace Sys2Proof.Machine

/-! Targets (R440). -/

/-- A sum of `pc`, base and sign-extended displacement is the integer sum modulo 2^20. -/
theorem State.relative_eq (s : State) (base : Nat) {w : Nat} (d : BitVec w) :
    s.relative base d = relTarget s.pc base d.toInt := by
  rw [State.relative, relTarget, BitVec.ofInt_add, BitVec.ofInt_add, BitVec.ofInt_natCast, BitVec.ofInt_natCast,
    BitVec.ofNat_toNat, BitVec.setWidth_eq, BitVec.signExtend]

/-- The displacement of `JMP.S` is unsigned (R442). -/
theorem relTarget_natCast {w : Nat} (pc : Addr) (base : Nat) (d : BitVec w) :
    relTarget pc base d.toNat = pc + BitVec.ofNat 20 base + d.setWidth 20 := by
  rw [relTarget, BitVec.ofInt_add, BitVec.ofInt_add, BitVec.ofInt_natCast, BitVec.ofInt_natCast, BitVec.ofInt_natCast,
    BitVec.ofNat_toNat, BitVec.ofNat_toNat, BitVec.setWidth_eq]

theorem specialEntry_eq (n : BitVec 8) : specialEntry n = BitVec.ofNat 20 (0xFFFFE - 2 * n.toNat) := by
  unfold specialEntry
  bv_omega

/-- The target of `JMPI.W` and `JSRI.W` (R448). -/
theorem jmpWTarget_eq (src : JmpW) (s : State) :
    (jmpWTarget src s).1 = relTarget s.pc 0 (jumpWord src s).toInt := by
  cases src <;> exact State.relative_eq s 0 _

/-- The target of `JMPI.A` and `JSRI.A` (R449). -/
theorem jmpATarget_eq (src : JmpA) (s : State) : (jmpATarget src s).1 = jumpAddress src s := by
  cases src <;> rfl

theorem specialTarget_eq (n : BitVec 8) (s : State) :
    specialTarget n s = (0xF#4 ++ (readWord (specialEntry n) s).1, (readWord (specialEntry n) s).2) := rfl

/-! Conditional jumps (R446, R447). -/

/-- A jump that may be taken ends at its target, or at the next instruction. -/
theorem jumpIf_pc (c : Bool) (a : Addr) (n : Nat) (s : State) :
    (if c then s.jump a else s.advance n).pc = if c then a else s.next n := by
  cases c <;> rfl

theorem jcnd_result {i : Instr} {c : Cond} {d : BitVec 8} {base n : Nat} {s : State} (hi : i.wellFormed = true)
    (hexec : exec i s = guarded i
      (fun s => .next (if condHolds c s.flg then s.jump (s.relative base d) else s.advance n)) s) :
    ∃ t, exec i s = .next t ∧ t.pc = if condHolds c s.flg then relTarget s.pc base d.toInt else s.next n := by
  refine ⟨_, hexec.trans (guarded_eq_next.mpr ⟨hi, rfl⟩), ?_⟩
  rw [jumpIf_pc, State.relative_eq]

/-! Special pages (R450). -/

theorem exec_jmps (n : BitVec 8) (s : State) : exec (.jmps n) s =
    guarded (.jmps n) (fun s => .next ((specialTarget n s).2.jump (specialTarget n s).1)) s := rfl

theorem jmps_result {n : BitVec 8} {s : State} (h : 18 ≤ n.toNat) : ∃ t, exec (.jmps n) s = .next t ∧
    t.pc = 0xF#4 ++ (readWord (BitVec.ofNat 20 (0xFFFFE - 2 * n.toNat)) s).1 := by
  rw [← specialEntry_eq]
  exact ⟨_, (exec_jmps n s).trans (guarded_eq_next.mpr ⟨decide_eq_true h, rfl⟩), rfl⟩

/-! `ADJNZ` (R457, R458). -/

theorem State.valueAt_jump (s : State) (a : Addr) (z : Size) (l : Loc) : (s.jump a).valueAt z l = s.valueAt z l := by
  cases z <;> cases l <;> rfl

/-- Once the sum is written, it decides between the jump and the next instruction. -/
theorem addJump_result {z : Size} {v : BitVec (Size.bits z)} {l : Loc} {d : BitVec 8} {n : Nat} {s t : State}
    (h : addJump z v l d n s = .next t) :
    t.valueAt z l = (readLoc z l s).1 + v ∧
      t.pc = if (readLoc z l s).1 + v = 0 then s.pc + BitVec.ofNat 20 n else relTarget s.pc 2 d.toInt := by
  obtain ⟨u, hu, ht⟩ := andThen_eq_next.mp h
  obtain ⟨hvalue, -⟩ := writeLoc_result hu
  have hpc : u.pc = s.pc := ((readLoc_effect z l s).after (writeLoc_leaves .other z l _ _ u hu)).kept .pc (by simp)
  cases ht
  constructor
  · split
    · exact (State.valueAt_advance u n z l).trans hvalue
    · exact (State.valueAt_jump u _ z l).trans hvalue
  · rw [apply_ite State.pc, State.advance_pc, State.jump_pc, State.next, hpc, State.relative_eq]
    rfl

/-- Both spellings add and jump. -/
theorem exec_addJump {i : Instr} {z : Size} {v : BitVec 4} {dst : Operand} {d : BitVec 8} {s : State}
    (hexec : exec i s = guarded i (fun s => addJump z (quickVal z v) (s.loc dst) d i.length s) s)
    (h : i.wellFormed = true ∧ ∀ a ∈ locBytes z (s.loc dst), s.writable a = true) :
    ∃ t r, exec i s = .next t ∧ r = (readLoc z (s.loc dst) s).1 + v.signExtend _ ∧ t.valueAt z (s.loc dst) = r ∧
      t.pc = if r = 0 then s.pc + BitVec.ofNat 20 i.length else relTarget s.pc 2 d.toInt := by
  obtain ⟨hi, hw⟩ := h
  obtain ⟨t, ht⟩ := (addJump_acts z (quickVal z v) (s.loc dst) d i.length s).completes hw
  obtain ⟨hvalue, hpc⟩ := addJump_result ht
  exact ⟨t, _, hexec.trans (guarded_eq_next.mpr ⟨hi, ht⟩), rfl, hvalue, hpc⟩

/-- Settles O55: every target is the integer sum, the address or the entry given; `ADJNZ` and `SBJNZ` are one addition
and jump. -/
theorem jumps : Obligations.Jumps :=
  ⟨fun d s => ⟨_, rfl, (relTarget_natCast s.pc 2 d).symm⟩,
    fun d s => ⟨_, rfl, State.relative_eq s 1 d⟩,
    fun d s => ⟨_, rfl, State.relative_eq s 1 d⟩,
    fun _ _ => ⟨_, rfl, rfl⟩,
    fun _ _ _ h => jcnd_result h rfl,
    fun _ _ _ h => jcnd_result (by rw [Instr.wellFormed, h, Bool.not_false]) rfl,
    fun src s => ⟨_, rfl, jmpWTarget_eq src s⟩,
    fun src s => ⟨_, rfl, jmpATarget_eq src s⟩,
    fun _ _ => jmps_result,
    fun _ _ _ _ _ => exec_addJump rfl,
    fun _ _ _ _ _ => exec_addJump rfl⟩

/-! A return address pushed (R451). -/

/-- An operation that went on could store to all its bytes. -/
theorem Acts.writable_of_next {l : List Addr} {s t : State} (h : Acts l s (.next t)) :
    ∀ a ∈ l, s.writable a = true := by
  rcases h with ⟨hw, -⟩ | ⟨_, -, -, he⟩ | ⟨_, -, -, -, he⟩
  · exact hw
  · cases he
  · cases he

/-- A return address depends on its three bytes. -/
theorem returnAt_congr {m m' : List Host.Cell} {sp : Word} {ret : Addr} (h : returnAt m sp ret)
    (hbytes : ∀ a ∈ returnBytes sp, memGet m' a.toNat = memGet m a.toNat) : returnAt m' sp ret := by
  obtain ⟨hlow, hmid, hhigh⟩ := h
  exact ⟨(hbytes _ (by simp [returnBytes])).trans hlow, (hbytes _ (by simp [returnBytes])).trans hmid,
    (hbytes _ (by simp [returnBytes])).trans hhigh⟩

/-- The two bytes of a stored word. -/
theorem bytes_of_wordAt {m : List Host.Cell} {a : Addr} {v : Word} (h : wordAt m a = v) :
    memGet m a.toNat = v.extractLsb' 0 8 ∧ memGet m (a + 1).toNat = v.extractLsb' 8 8 := by
  subst h
  exact ⟨(loByte_append _ _).symm, (hiByte_append _ _).symm⟩

/-- The third byte of a return address is neither byte of the word below it, also where the stack pointer wraps. -/
theorem near_add_two_ne (sp : Word) : near (sp + 2) ≠ near sp ∧ near (sp + 2) ≠ near sp + 1 := by
  unfold near
  constructor <;> bv_omega

/-- A return address that was pushed lies at the stack pointer (R451). -/
theorem pushRet_called {ret : Addr} {s t : State} (h : pushRet ret s = .next t) : called ret s t := by
  obtain ⟨u, hu, ht⟩ := andThen_eq_next.mp h
  obtain ⟨hw, -⟩ := push8_eq_next.mp hu
  obtain ⟨_, hu', husp, hubyte, -⟩ := push8_result (v := 0#4 ++ ret.extractLsb' 16 4) hw
  cases hu.symm.trans hu'
  have hword := (ht ▸ push16_acts (ret.extractLsb' 0 16) u).writable_of_next
  obtain ⟨_, ht', htsp, htword, hkept, -⟩ := push16_result (v := ret.extractLsb' 0 16)
    (hword _ List.mem_cons_self) (hword _ (List.mem_cons_of_mem _ List.mem_cons_self))
  cases ht.symm.trans ht'
  obtain ⟨hlow, hhigh⟩ := bytes_of_wordAt htword
  rw [BitVec.extractLsb'_extractLsb'_of_le (by decide)] at hlow hhigh
  have hsp : t.sp + 2 = u.sp := by rw [htsp, BitVec.sub_add_cancel]
  obtain ⟨hne, hne'⟩ := near_add_two_ne t.sp
  refine ⟨?_, hlow, hhigh, ?_⟩
  · rw [htsp, husp]
    bv_omega
  · rw [hkept _ hne hne', hsp]
    exact hubyte

/-! Calls (R451 to R455). -/

theorem called.jump {ret : Addr} {s t : State} (h : called ret s t) (a : Addr) : called ret s (t.jump a) := h

theorem callTo_result {a : Addr} {n : Nat} {s t : State} (h : callTo a n s = .next t) :
    called (s.pc + BitVec.ofNat 20 n) s t ∧ t.pc = a := by
  obtain ⟨u, hu, ht⟩ := andThen_eq_next.mp h
  cases ht
  exact ⟨(pushRet_called hu).jump a, rfl⟩

/-- A call after a read of its target. -/
theorem callAfter_result {a : Addr} {n : Nat} {s s' t : State} (h : callTo a n s' = .next t) (hread : Effect [] [] s s')
    (hsp : s'.sp = s.sp) : called (s.pc + BitVec.ofNat 20 n) s t ∧ t.pc = a := by
  have hpc : s'.pc = s.pc := hread.kept .pc (by simp)
  obtain ⟨⟨htsp, hret⟩, ht⟩ := callTo_result h
  rw [hsp] at htsp
  rw [hpc] at hret
  exact ⟨⟨htsp, hret⟩, ht⟩

/-- A read leaves the stack pointer and memory as they are. -/
theorem called.read {ret : Addr} {s t u : State} (h : called ret s t) (k : Touches [] t u) : called ret s u := by
  obtain ⟨hsp, hret⟩ := h
  rw [called, k.sp]
  exact ⟨hsp, returnAt_congr hret fun a _ => k.mem a List.not_mem_nil⟩

/-- A plain byte stays plain: stores change neither the product nor where the interrupt control registers lie. -/
theorem Keeps.plain {l : List Addr} {s t : State} (h : Keeps l s t) {b : Addr} (hb : s.plain b) : t.plain b := by
  have k : Touches l s { s with mem := t.mem, sources := t.sources } :=
    ⟨rfl, h.mem, h.wf, h.shape, fun _ => .inl, [], rfl⟩
  simpa only [State.plain, State.isHole, State.isSfr, h.product] using k.plain hb

section
variable {s t : State}

theorem jsrW_result {d : BitVec 16} (h : exec (.jsrW d) s = .next t) :
    called (s.pc + 3) s t ∧ t.pc = relTarget s.pc 1 d.toInt := by
  rw [← State.relative_eq]
  exact callTo_result h

theorem jsrA_result {a : Addr} (h : exec (.jsrA a) s = .next t) : called (s.pc + 4) s t ∧ t.pc = a :=
  callTo_result h

theorem jsriW_result {src : JmpW} (h : exec (.jsriW src) s = .next t) :
    called (s.pc + BitVec.ofNat 20 (Instr.jsriW src).length) s t ∧
      t.pc = relTarget s.pc 0 (jumpWord src s).toInt := by
  rw [← jmpWTarget_eq]
  exact callAfter_result h (jmpWTarget_effect src s) (jmpWTarget_sp src s)

theorem jsriA_result {src : JmpA} (h : exec (.jsriA src) s = .next t) :
    called (s.pc + BitVec.ofNat 20 (Instr.jsriA src).length) s t ∧ t.pc = jumpAddress src s := by
  rw [← jmpATarget_eq]
  exact callAfter_result h (jmpATarget_effect src s) (jmpATarget_sp src s)

theorem exec_jsrs (n : BitVec 8) (s : State) : exec (.jsrs n) s = guarded (.jsrs n) (fun s =>
    andThen (pushRet (s.next 2) s) fun t => .next ((specialTarget n t).2.jump (specialTarget n t).1)) s := rfl

/-- The push comes before the read of the entry, and leaves a plain entry plain. -/
theorem jsrs_result {n : BitVec 8} (h : exec (.jsrs n) s = .next t) : called (s.pc + 2) s t ∧
    ((∀ a ∈ [BitVec.ofNat 20 (0xFFFFE - 2 * n.toNat), BitVec.ofNat 20 (0xFFFFE - 2 * n.toNat) + 1], s.plain a) →
      t.pc = 0xF#4 ++ wordAt t.mem (BitVec.ofNat 20 (0xFFFFE - 2 * n.toNat))) := by
  rw [← specialEntry_eq]
  obtain ⟨-, hcall⟩ := guarded_eq_next.mp ((exec_jsrs n s).symm.trans h)
  obtain ⟨u, hu, ht⟩ := andThen_eq_next.mp hcall
  cases ht
  rw [specialTarget_eq]
  refine ⟨((pushRet_called hu).read (readWord_touches (specialEntry n) u)).jump _, fun hplain => ?_⟩
  have hkeeps : Keeps (callBytes s.sp) s u := (pushRet_leaves _ s u hu).keeps
  have hread : readWord (specialEntry n) u = (wordAt u.mem (specialEntry n), u) :=
    readWord_plain (hkeeps.plain (hplain _ (by simp))) (hkeeps.plain (hplain _ (by simp)))
  rw [hread, State.jump_pc, State.jump_mem]

end

/-- An instruction whose bytes can all be stored to completes. -/
theorem exec_completes_of_allows {i : Instr} {s : State} (h : s.allows i) : ∃ t, exec i s = .next t := by
  obtain ⟨hi, hw⟩ := h
  exact (exec_acts hi s).completes hw

/-! `RTS` (R456). -/

theorem rts_result (s : State) : ∃ t, exec .rts s = .next t ∧ t.sp = s.sp + 3 ∧
    ((∀ a ∈ returnBytes s.sp, s.plain a) →
      t.pc = (memGet s.mem (near (s.sp + 2)).toNat).extractLsb' 0 4 ++ wordAt s.mem (near s.sp)) := by
  obtain ⟨hlosp, hlomem, hloword, -⟩ := pop16_result s
  obtain ⟨hhisp, -, hhibyte, -⟩ := pop8_result (pop16 s).2
  rw [hlosp] at hhisp hhibyte
  refine ⟨_, rfl, ?_, fun hplain => ?_⟩
  · rw [State.jump_sp, hhisp, BitVec.add_assoc]
    rfl
  · obtain ⟨h0, h1, h2⟩ : s.plain (near s.sp) ∧ s.plain (near s.sp + 1) ∧ s.plain (near (s.sp + 2)) := by
      simpa [returnBytes] using hplain
    rw [State.jump_pc, hhibyte ((pop16_keeps s).plain h2), hloword h0 h1, hlomem]

/-- Settles O56: each call by what its push leaves, and `RTS` by its two pops. -/
theorem callsAndReturn : Obligations.CallsAndReturn :=
  ⟨fun _ _ h => (exec_completes_of_allows h).imp fun _ ht => ⟨ht, jsrW_result ht⟩,
    fun _ _ h => (exec_completes_of_allows h).imp fun _ ht => ⟨ht, jsrA_result ht⟩,
    fun _ _ h => (exec_completes_of_allows h).imp fun _ ht => ⟨ht, jsriW_result ht⟩,
    fun _ _ h => (exec_completes_of_allows h).imp fun _ ht => ⟨ht, jsriA_result ht⟩,
    fun _ _ h => (exec_completes_of_allows h).imp fun _ ht => ⟨ht, jsrs_result ht⟩,
    rts_result⟩

/-! `RTS` after a call. -/

/-- The three bytes of a return address put together again, without the high nibble of the third (D25). -/
theorem address_of_returnAt {m : List Host.Cell} {sp : Word} {ret : Addr} (h : returnAt m sp ret) :
    (memGet m (near (sp + 2)).toNat).extractLsb' 0 4 ++ wordAt m (near sp) = ret := by
  obtain ⟨hlow, hmid, hhigh⟩ := h
  have hword : wordAt m (near sp) = ret.extractLsb' 0 16 := by
    rw [wordAt, hlow, hmid, BitVec.extractLsb'_append_extractLsb'_eq_extractLsb' (by decide)]
  rw [hhigh, hword, BitVec.extractLsb'_append_eq_right]
  exact append_extract (m := 4) (n := 16) ret

/-- Every call leaves the address of the instruction after it. -/
theorem call_called {i : Instr} {s t : State} (hi : (∃ d, i = .jsrW d) ∨ (∃ a, i = .jsrA a) ∨
    (∃ src, i = .jsriW src) ∨ (∃ src, i = .jsriA src) ∨ (∃ n, i = .jsrs n)) (h : exec i s = .next t) :
    called (s.pc + BitVec.ofNat 20 i.length) s t := by
  obtain ⟨d, rfl⟩ | ⟨a, rfl⟩ | ⟨src, rfl⟩ | ⟨src, rfl⟩ | ⟨n, rfl⟩ := hi
  · exact (jsrW_result h).1
  · exact (jsrA_result h).1
  · exact (jsriW_result h).1
  · exact (jsriA_result h).1
  · exact (jsrs_result h).1

/-- Settles O57: the three bytes of the call are the three that `RTS` puts together. -/
theorem returnUndoesCall : Obligations.ReturnUndoesCall := by
  intro i s t u hi h husp hbytes
  obtain ⟨htsp, hret⟩ := call_called hi h
  have hretu : returnAt u.mem t.sp _ := returnAt_congr hret fun a ha => (hbytes a ha).2
  obtain ⟨v, hv, hvsp, hvpc⟩ := rts_result u
  rw [husp] at hvsp hvpc
  refine ⟨v, hv, ?_, ?_⟩
  · exact (hvpc fun a ha => (hbytes a ha).1).trans (address_of_returnAt hretu)
  · rw [hvsp, htsp, BitVec.sub_add_cancel]

end Sys2Proof.Machine
end

section
/-! PROOFS. The step that runs an instruction or goes on with one (R480, R549, R630). -/

namespace Sys2Proof.Machine

section
variable {i : Instr} {s t : State}

theorem runDecoded_of_fault {e : Fault} (h : exec i s.started = .fault e) : runDecoded i s = .fault e := by
  rw [runDecoded, h, andThen_of_fault]

theorem runDecoded_of_next (h : exec i s.started = .next t) : runDecoded i s = .next (completed i s t) := by
  rw [runDecoded, h, andThen_of_next]

theorem completed_eq : completed i s t = if interruptible i = true ∧ t.pc = s.pc then { t with resume := some i }
    else { t.tick with stepReq := t.stepReq || s.flg.d } := by
  simp only [completed, Bool.and_eq_true, beq_iff_eq]

theorem fetched_pc (s : State) : s.fetched.pc = s.pc := by
  unfold State.fetched State.passed
  split <;> rfl

/-- Where no request is accepted, an instruction in progress goes on with its next iteration. -/
theorem step_of_progress (hres : s.resume = some i) (hreset : s.resetReq = false) (hwait : s.waiting = false)
    (hshadow : s.intShadow = false) (hnone : (chooseHw s).1 = none) :
    step s = runDecoded i { s with draws := (chooseHw s).2 } := by
  have hhw : chooseHw s = (none, (chooseHw s).2) := Prod.ext hnone rfl
  rw [step, cpuStep, hhw]
  simp [hreset, hwait, hshadow, runInstruction, hres]

/-- An iteration that goes on starts with the windows of the sources as they are. -/
theorem progress_started (hres : s.resume = some i) (n : Nat) :
    ({ s with draws := n } : State).started = { s with resume := none, prevI := none, draws := n } := by
  simp [State.started, hres]

end

/-- Settles O6: both boundaries end in `runDecoded`, from the state after the fetch or from the present one. -/
theorem stepRuns : Obligations.StepRuns := by
  refine ⟨fun s i rest hready hdecode => ?_, fun s i hres hreset hwait hshadow hnone => ?_⟩
  · rw [step_of_ready hready hdecode, ← fetched_pc s, ← fetched_flg s]
    exact ⟨fun _ => runDecoded_of_fault, fun _ h => completed_eq ▸ runDecoded_of_next h⟩
  · rw [step_of_progress hres hreset hwait hshadow hnone, ← progress_started hres]
    exact ⟨fun _ => runDecoded_of_fault, fun _ h => completed_eq ▸ runDecoded_of_next h⟩

end Sys2Proof.Machine
end

section
/-! PROOFS. One iteration of the string instructions (R480 to R484). -/

namespace Sys2Proof.Machine

/-! The 24-bit source pointer `R1H:A0` (R481). -/

theorem elem_toNat (z : Size) : (elem z).toNat = sizeBytes z := by cases z <;> rfl

theorem byte_append_word_toNat (h : Byte) (a : Word) : (h ++ a).toNat = h.toNat * 2 ^ 16 + a.toNat := by
  rw [BitVec.toNat_append, ← Nat.shiftLeft_add_eq_or_of_lt a.isLt, Nat.shiftLeft_eq]

theorem stringSrc_eq (s : State) : s.stringSrc = BitVec.ofNat 20 (s.count.toNat * 2 ^ 16 + s.bank.a0.toNat) := by
  rw [State.stringSrc, ← byte_append_word_toNat]
  rfl

/-- The high byte takes the borrow of the low word. -/
theorem append_sub_borrow (h : Byte) (a k : Word) :
    (if a.toNat < k.toNat then h - 1 else h) ++ (a - k) = h ++ a - k.setWidth 24 := by
  apply BitVec.eq_of_toNat_eq
  rw [byte_append_word_toNat, BitVec.toNat_sub, BitVec.toNat_sub, byte_append_word_toNat, BitVec.toNat_setWidth]
  split
  · rw [BitVec.toNat_sub, show (1 : Byte).toNat = 1 from rfl]
    omega
  · omega

/-- The high byte takes the carry of the low word. -/
theorem append_add_carry (h : Byte) (a k : Word) :
    (if 0xFFFF < a.toNat + k.toNat then h + 1 else h) ++ (a + k) = h ++ a + k.setWidth 24 := by
  apply BitVec.eq_of_toNat_eq
  rw [byte_append_word_toNat, BitVec.toNat_add, BitVec.toNat_add, byte_append_word_toNat, BitVec.toNat_setWidth]
  split
  · rw [BitVec.toNat_add, show (1 : Byte).toNat = 1 from rfl]
    omega
  · omega

/-! The registers after an iteration. -/

/-- `SMOVB` moves both pointers down and counts. -/
def Bank.movedDown (z : Size) (b : Bank) : Bank :=
  { b with
    r1 := (if b.a0.toNat < sizeBytes z then hiByte b.r1 - 1 else hiByte b.r1) ++ loByte b.r1
    a0 := b.a0 - elem z, a1 := b.a1 - elem z, r3 := b.r3 - 1 }

/-- `SMOVF` moves both pointers up and counts. -/
def Bank.movedUp (z : Size) (b : Bank) : Bank :=
  { b with
    r1 := (if 0xFFFF < b.a0.toNat + sizeBytes z then hiByte b.r1 + 1 else hiByte b.r1) ++ loByte b.r1
    a0 := b.a0 + elem z, a1 := b.a1 + elem z, r3 := b.r3 - 1 }

/-- `SSTR` moves the destination up and counts. -/
def Bank.filledUp (z : Size) (b : Bank) : Bank := { b with a1 := b.a1 + elem z, r3 := b.r3 - 1 }

theorem movedDown_source (z : Size) (s : State) :
    hiByte (s.bank.movedDown z).r1 ++ (s.bank.movedDown z).a0 = s.count ++ s.bank.a0 - (elem z).setWidth 24 := by
  rw [← append_sub_borrow, elem_toNat, Bank.movedDown, hiByte_append, State.count]

theorem movedUp_source (z : Size) (s : State) :
    hiByte (s.bank.movedUp z).r1 ++ (s.bank.movedUp z).a0 = s.count ++ s.bank.a0 + (elem z).setWidth 24 := by
  rw [← append_add_carry, elem_toNat, Bank.movedUp, hiByte_append, State.count]

/-! One iteration (R480). -/

/-- The common part of the three: an element is stored, the registers move, and at the last one `pc` goes on. -/
def iteration (z : Size) (a : Addr) (v : BitVec (Size.bits z)) (move : Bank → Bank) (s : State) : Result :=
  andThen (writeMem .other z a v s) fun t =>
    .next (endIteration (t.bank.r3 == 1#16) 2 (t.setBank (move t.bank)))

theorem State.valueAt_setBank (s : State) (b : Bank) (z : Size) (a : Addr) :
    (s.setBank b).valueAt z (.mem a) = s.valueAt z (.mem a) := by
  cases z <;> rfl

theorem State.valueAt_endIteration (last : Bool) (len : Nat) (s : State) (z : Size) (a : Addr) :
    (endIteration last len s).valueAt z (.mem a) = s.valueAt z (.mem a) := by
  cases last <;> cases z <;> rfl

theorem endIteration_bank (last : Bool) (len : Nat) (s : State) : (endIteration last len s).bank = s.bank := by
  cases last <;> rfl

theorem endIteration_pc (last : Bool) (s : State) : (endIteration last 2 s).pc = if last then s.pc + 2 else s.pc := by
  cases last <;> rfl

section
variable {z : Size} {s t : State}

theorem iteration_result {a : Addr} {v : BitVec (Size.bits z)} {move : Bank → Bank} {u : State}
    (hread : Touches [] s u) (h : iteration z a v move u = .next t) :
    t.valueAt z (.mem a) = v ∧ t.bank = move s.bank ∧ iterated (s.bank.r3 == 1#16) s t := by
  obtain ⟨w, hw, ⟨⟩⟩ := andThen_eq_next.mp h
  have hstore := writeMem_touches hw
  have hbank : w.bank = s.bank := hstore.bank.trans hread.bank
  have hpc : w.pc = s.pc := hstore.pc.trans hread.pc
  refine ⟨?_, ?_, ?_⟩
  · rw [State.valueAt_endIteration, State.valueAt_setBank, (writeMem_result hw).1]
  · rw [endIteration_bank, State.setBank_bank, hbank]
  · rw [iterated, endIteration_pc, State.setBank_pc, hbank, hpc]

theorem exec_smovb_zero (h : s.bank.r3 = 0#16) : exec (.smovb z) s = .next (s.advance 2) := if_pos h
theorem exec_smovf_zero (h : s.bank.r3 = 0#16) : exec (.smovf z) s = .next (s.advance 2) := if_pos h
theorem exec_sstr_zero (h : s.bank.r3 = 0#16) : exec (.sstr z) s = .next (s.advance 2) := if_pos h

theorem exec_smovb_nonzero (h : s.bank.r3 ≠ 0#16) : exec (.smovb z) s = iteration z (near s.bank.a1)
    (readMem z s.stringSrc s).1 (Bank.movedDown z) (readMem z s.stringSrc s).2 := if_neg h

theorem exec_smovf_nonzero (h : s.bank.r3 ≠ 0#16) : exec (.smovf z) s = iteration z (near s.bank.a1)
    (readMem z s.stringSrc s).1 (Bank.movedUp z) (readMem z s.stringSrc s).2 := if_neg h

theorem exec_sstr_nonzero (h : s.bank.r3 ≠ 0#16) : exec (.sstr z) s = iteration z (near s.bank.a1)
    (readLoc z (.data .d0) s).1 (Bank.filledUp z) s := if_neg h

/-- An iteration that copies leaves the element of the source address, and the pointers and the count as the move sets
them. -/
theorem copy_iteration {move : Bank → Bank} {p : BitVec 24} {a1 : Word}
    (hp : hiByte (move s.bank).r1 ++ (move s.bank).a0 = p) (ha1 : (move s.bank).a1 = a1)
    (hr3 : (move s.bank).r3 = s.bank.r3 - 1)
    (h : iteration z (near s.bank.a1) (readMem z s.stringSrc s).1 move (readMem z s.stringSrc s).2 = .next t) :
    t.valueAt z (.mem (near s.bank.a1)) =
      (readMem z (BitVec.ofNat 20 (s.count.toNat * 2 ^ 16 + s.bank.a0.toNat)) s).1 ∧
    t.count ++ t.bank.a0 = p ∧ t.bank.a1 = a1 ∧ t.bank.r3 = s.bank.r3 - 1 ∧ iterated (s.bank.r3 == 1#16) s t := by
  rw [← stringSrc_eq]
  obtain ⟨hvalue, hbank, hpc⟩ := iteration_result (readMem_touches z s.stringSrc s) h
  rw [State.count, hbank]
  exact ⟨hvalue, hp, ha1, hr3, hpc⟩

theorem sstr_iteration (hcount : s.bank.r3 ≠ 0#16) (h : exec (.sstr z) s = .next t) :
    t.valueAt z (.mem (near s.bank.a1)) = (readLoc z (.data .d0) s).1 ∧
    t.bank.a1 = s.bank.a1 + elem z ∧ t.bank.r3 = s.bank.r3 - 1 ∧ iterated (s.bank.r3 == 1#16) s t := by
  rw [exec_sstr_nonzero hcount] at h
  obtain ⟨hvalue, hbank, hpc⟩ := iteration_result (.refl [] s) h
  rw [hbank]
  exact ⟨hvalue, rfl, rfl, hpc⟩

end

/-- Settles O54: without a count each only advances; with one, the three are one `iteration` with their own value and
move of the registers. -/
theorem stringIteration : Obligations.StringIteration :=
  ⟨fun _ _ h => ⟨exec_smovb_zero h, exec_smovf_zero h, exec_sstr_zero h⟩,
    fun _ _ hcount h => (exec_completes_of_allows h).imp fun _ ht => ⟨ht,
      copy_iteration (movedDown_source _ _) rfl rfl ((exec_smovb_nonzero hcount).symm.trans ht)⟩,
    fun _ _ hcount h => (exec_completes_of_allows h).imp fun _ ht => ⟨ht,
      copy_iteration (movedUp_source _ _) rfl rfl ((exec_smovf_nonzero hcount).symm.trans ht)⟩,
    fun _ _ hcount h => (exec_completes_of_allows h).imp fun _ ht => ⟨ht, sstr_iteration hcount ht⟩⟩

end Sys2Proof.Machine
end

section
/-! PROOFS. The interrupt sequence with its frame, the software interrupts, and `REIT` (R490, R505, R508, R524, R532,
R560, R562, R563). -/

namespace Sys2Proof.Machine

/-- A memory access changes no register. -/
theorem Touches.registers {l : List Addr} {s t : State} (h : Touches l s t) :
    t.bank0 = s.bank0 ∧ t.bank1 = s.bank1 ∧ t.sb = s.sb ∧ t.intb = s.intb ∧ t.usp = s.usp ∧ t.isp = s.isp := by
  rw [h.rest]
  exact ⟨rfl, rfl, rfl, rfl, rfl, rfl⟩

/-! Two words pushed one after the other (R104). -/

section
variable {s t u : State}

theorem push16_touches {v : Word} (h : push16 v s = .next t) :
    Touches (sizeAt .w (pushAt .w s.sp)) (s.setSp (s.sp - 2)) t := writeMem_touches (z := .w) h

theorem push16_wordAt {v : Word} (h : push16 v s = .next t) : wordAt t.mem (near (s.sp - 2)) = v :=
  (writeMem_result (z := .w) h).1

/-- A memory access does not see the stack pointers. -/
theorem Touches.setSp {l : List Addr} (h : Touches l s t) (v : Word) : Touches l (s.setSp v) (t.setSp v) where
  rest := by rw [h.rest]; rfl
  mem := h.mem
  wf := h.wf
  shape := h.shape
  queue := h.queue
  trace := h.trace

theorem State.setSp_setSp (s : State) (v w : Word) : (s.setSp v).setSp w = s.setSp w := by
  cases h : s.flg.u <;> simp [State.setSp, h]

/-- The second word lies below the first, also where the stack pointer wraps. -/
theorem push16_push16 {hi lo : Word} (ht : push16 hi s = .next t) (hu : push16 lo t = .next u) :
    Touches (pushedBytes 2 s.sp) (s.setSp (s.sp - 4)) u ∧ u.sp = s.sp - 4 ∧
      wordAt u.mem (near (s.sp - 4)) = lo ∧ wordAt u.mem (near (s.sp - 4 + 2)) = hi := by
  have hsp : t.sp - 2 = s.sp - 4 := by rw [push16_sp ht, BitVec.sub_sub]; rfl
  have hup : s.sp - 4 + 2 = s.sp - 2 := by bv_omega
  have h1 := (push16_touches ht).setSp (s.sp - 4)
  rw [State.setSp_setSp] at h1
  have h2 := push16_touches hu
  rw [hsp] at h2
  have hdisjoint := List.disjoint_of_nodup_append (pushedBytes_nodup (n := 2) (by decide) s.sp)
  refine ⟨?_, (push16_sp hu).trans hsp, hsp ▸ push16_wordAt hu, ?_⟩
  · have h := h1.trans h2
    rwa [push16_sp ht] at h
  · rw [hup, ← push16_wordAt ht]
    refine wordAt_congr fun a ha => h2.mem a ?_
    rw [push16_sp ht]
    exact fun hb => hdisjoint ha (List.mem_append_left _ hb)

end

/-! The frame (R562). -/

section
variable {m m' : List Host.Cell} {sp : Word} {f : Flg} {ret : Addr}

theorem frameWord_low : (frameWord f ret).extractLsb' 0 8 = f.toWord.extractLsb' 0 8 :=
  BitVec.extractLsb'_append_eq_right

theorem frameWord_high :
    (frameWord f ret).extractLsb' 8 8 = f.toWord.extractLsb' 12 4 ++ ret.extractLsb' 16 4 :=
  BitVec.extractLsb'_append_eq_left

/-- A frame is its two words: the low one of the address, and the one with the rest and the flags. -/
theorem framed_iff :
    framed m sp f ret ↔ wordAt m (near sp) = ret.extractLsb' 0 16 ∧ wordAt m (near (sp + 2)) = frameWord f ret := by
  constructor
  · rintro ⟨h0, h1, h2, h3⟩
    constructor
    · rw [wordAt, h0, h1, BitVec.extractLsb'_append_extractLsb'_eq_extractLsb' (by decide)]
    · rw [wordAt, h2, h3, frameWord]
  · rintro ⟨hlo, hhi⟩
    obtain ⟨h0, h1⟩ := bytes_of_wordAt hlo
    obtain ⟨h2, h3⟩ := bytes_of_wordAt hhi
    rw [BitVec.extractLsb'_extractLsb'_of_le (by decide)] at h0 h1
    exact ⟨h0, h1, h2.trans frameWord_low, h3.trans frameWord_high⟩

theorem framed_congr (h : ∀ a ∈ frameBytes sp, memGet m' a.toNat = memGet m a.toNat) (hf : framed m sp f ret) :
    framed m' sp f ret := by
  rw [framed_iff] at hf ⊢
  obtain ⟨hlo, hhi⟩ := hf
  exact ⟨(wordAt_congr fun a ha => h a (List.mem_append_left _ ha)).trans hlo,
    (wordAt_congr fun a ha => h a (List.mem_append_right _ ha)).trans hhi⟩

end

/-! The interrupt sequence (R560). -/

/-- The state in which the sequence reads its vector: the level is set, and nothing waits. -/
def seqReady (level : Option (BitVec 3)) (s : State) : State :=
  { s.setFlg (seqLevel level s.flg) with waiting := false }

/-- The sequence pushes its two words, reads the vector and jumps. -/
theorem intSeq_eq_next {vec ret : Addr} {clearU : Bool} {level : Option (BitVec 3)} {s v : State} :
    intSeq vec ret clearU level s = .next v ↔ ∃ t u,
      push16 (frameWord s.flg ret) (s.setFlg (seqFlags clearU s.flg)) = .next t ∧
      push16 (ret.extractLsb' 0 16) t = .next u ∧
      v = (read32 vec (seqReady level u)).2.jump ((read32 vec (seqReady level u)).1.extractLsb' 0 20) := by
  rw [intSeq, andThen_eq_next]
  constructor
  · rintro ⟨t, ht, h⟩
    obtain ⟨u, hu, ⟨⟩⟩ := andThen_eq_next.mp h
    exact ⟨t, u, ht, hu, rfl⟩
  · rintro ⟨t, u, ht, hu, rfl⟩
    exact ⟨t, ht, andThen_eq_next.mpr ⟨u, hu, rfl⟩⟩

theorem seqLevel_seqFlags (clearU : Bool) (level : Option (BitVec 3)) (f : Flg) :
    seqLevel level (seqFlags clearU f) =
      { f with i := false, d := false, u := f.u && !clearU, ipl := level.getD f.ipl } := by
  cases level <;> cases clearU <;> simp [seqLevel, seqFlags, Flg.setIpl]

/-- The low 20 bits of four bytes are the vector they hold (R560). -/
theorem vector_of_words (m : List Host.Cell) (vec : Addr) :
    (wordAt m (vec + 2) ++ wordAt m vec).extractLsb' 0 20 = memVector m vec := by
  refine BitVec.eq_of_getLsbD_eq fun k hk => ?_
  rw [memVector, wordAt, wordAt]
  simp only [BitVec.getLsbD_extractLsb', BitVec.getLsbD_append]
  interval_cases k <;> simp

theorem read32_state_mem (a : Addr) (s : State) : (read32 a s).2.mem = s.mem := by
  simp only [read32, recordRead, State.record_mem]
  rfl

/-- A plain vector is read as it is stored. -/
theorem read32_vector {vec : Addr} {s : State} (h : ∀ a ∈ [vec, vec + 1, vec + 2, vec + 3], s.plain a) :
    (read32 vec s).1.extractLsb' 0 20 = memVector s.mem vec := by
  have h3 : s.plain (vec + 2 + 1) := by
    rw [BitVec.add_assoc]
    exact h (vec + 3) (by simp)
  rw [read32_plain (h vec (by simp)) (h (vec + 1) (by simp)) (h (vec + 2) (by simp)) h3]
  exact vector_of_words s.mem vec

section
variable {vec ret : Addr} {clearU : Bool} {level : Option (BitVec 3)} {s s' t : State}

/-- What the sequence leaves: its frame, its flags and its target, an empty queue, and all other memory. -/
theorem intSeq_entered (h : intSeq vec ret clearU level s = .next t) :
    entered vec ret clearU level s t ∧ t.queue = [] ∧
      ∀ a : Addr, a ∉ pushedBytes 2 (if clearU then s.isp else s.sp) → memGet t.mem a.toNat = memGet s.mem a.toNat := by
  obtain ⟨v, u, hv, hu, rfl⟩ := intSeq_eq_next.mp h
  obtain ⟨hpush, husp, hlo, hhi⟩ := push16_push16 hv hu
  rw [setFlg_sp_seqFlags] at hpush husp hlo hhi
  have hread := read32_touches vec (seqReady level u)
  obtain ⟨hpush0, hpush1, hpushSb, hpushIntb, hpushUsp, hpushIsp⟩ := hpush.registers
  obtain ⟨hread0, hread1, hreadSb, hreadIntb, hreadUsp, hreadIsp⟩ := hread.registers
  have hflg : u.flg = seqFlags clearU s.flg := hpush.flg
  have hmem : (read32 vec (seqReady level u)).2.mem = u.mem := read32_state_mem vec (seqReady level u)
  refine ⟨⟨?_, ?_, ?_, ?_, ?_, ?_, ?_, ?_, ?_, fun hplain => ?_⟩, State.jump_queue _ _, fun a ha => ?_⟩
  · rw [State.jump_mem, hmem]
    exact framed_iff.mpr ⟨hlo, hhi⟩
  · rw [State.jump_sp, hread.sp, ← husp]
    cases level <;> rfl
  · rw [State.jump_flg, hread.flg, ← seqLevel_seqFlags, ← hflg]
    rfl
  · rw [State.jump_waiting, hread.rest]
    rfl
  · exact hread0.trans hpush0
  · exact hread1.trans hpush1
  · exact hreadSb.trans hpushSb
  · exact hreadIntb.trans hpushIntb
  · rw [State.jump_usp, State.jump_isp, hreadUsp, hreadIsp]
    simp only [seqReady, State.setFlg_usp, State.setFlg_isp, hpushUsp, hpushIsp]
    cases clearU <;> cases hbit : s.flg.u <;> simp [seqFlags, hbit]
  · have hkept : ∀ a ∈ [vec, vec + 1, vec + 2, vec + 3], (seqReady level u).plain a :=
      fun a ha => hpush.plain (hplain a ha)
    rw [State.jump_pc, State.jump_mem, hmem, read32_vector hkept]
    rfl
  · rw [State.jump_mem, hmem, hpush.mem a ha]
    rfl

/-- The sequence goes on where its frame can be stored. -/
theorem intSeq_completes (h : ∀ a ∈ pushedBytes 2 (if clearU then s.isp else s.sp), s.writable a = true) :
    ∃ t, intSeq vec ret clearU level s = .next t := by
  rw [← setFlg_sp_seqFlags] at h
  exact (intSeq_acts vec ret clearU level s).completes h

end

/-- Settles O24: the two pushes of the sequence make the frame, and nothing else is stored. -/
theorem intSeqResult : Obligations.IntSeqResult := fun _ _ _ _ _ h =>
  (intSeq_completes h).imp fun _ ht => ⟨ht, intSeq_entered ht⟩

/-! The software interrupts (R490, R505, R508, R532). -/

/-- A sequence that starts after a memory access is one from the state before it. -/
theorem entered_of_touches {l : List Addr} {vec ret : Addr} {clearU : Bool} {level : Option (BitVec 3)}
    {s s' t : State} (h : Touches l s s') (he : entered vec ret clearU level s' t) :
    entered vec ret clearU level s t := by
  obtain ⟨h0, h1, hsb, hintb, husp, hisp⟩ := h.registers
  obtain ⟨hframe, hsp, hflg, hwait, hbank0, hbank1, htsb, htintb, hother, hpc⟩ := he
  rw [hisp, h.sp, h.flg] at hframe
  rw [hisp, h.sp] at hsp
  rw [h.flg] at hflg
  rw [h.flg, husp, hisp] at hother
  exact ⟨hframe, hsp, hflg, hwait, hbank0.trans h0, hbank1.trans h1, htsb.trans hsb, htintb.trans hintb, hother,
    fun hplain => hpc fun a ha => h.plain (hplain a ha)⟩

/-- The variable vectors stand four bytes apart (R87). -/
theorem variableVector_eq (s : State) {w : Nat} (num : BitVec w) :
    s.variableVector num = s.intb + BitVec.ofNat 20 (4 * num.toNat) := by
  have hshift : (num.setWidth 20 : Addr) <<< 2 = BitVec.ofNat 20 (4 * num.toNat) := by
    apply BitVec.eq_of_toNat_eq
    rw [BitVec.toNat_shiftLeft, BitVec.toNat_setWidth, BitVec.toNat_ofNat, Nat.shiftLeft_eq]
    omega
  rw [State.variableVector, hshift]

section
variable {s t : State}

theorem und_entered (h : exec .und s = .next t) : entered 0xFFFDC#20 (s.pc + 1) true none s t := by
  obtain ⟨-, hseq⟩ := guarded_eq_next.mp (show execUnd s = .next t from h)
  exact (intSeq_entered hseq).1

theorem into_entered (ho : s.flg.o = true) (h : exec .into s = .next t) :
    entered 0xFFFE0#20 (s.pc + 1) true none s t := by
  obtain ⟨-, hseq⟩ := guarded_eq_next.mp (show execInto s = .next t from h)
  rw [if_pos ho] at hseq
  exact (intSeq_entered hseq).1

theorem exec_into_passed (ho : s.flg.o = false) : exec .into s = .next (s.advance 1) := by
  have hbody : exec .into s =
      if s.flg.o then intSeq Config.intoVector (s.next 1) true none s else .next (s.advance 1) := rfl
  rw [hbody, ho]
  rfl

theorem int_entered {n : BitVec 6} (h : exec (.int n) s = .next t) :
    entered (s.intb + BitVec.ofNat 20 (4 * n.toNat)) (s.pc + 2) (decide (n.toNat ≤ 31)) none s t := by
  obtain ⟨-, hseq⟩ := guarded_eq_next.mp (show execInt n s = .next t from h)
  rw [← variableVector_eq]
  exact (intSeq_entered hseq).1

/-- The vector that `BRK` goes through. -/
def brkVectorOf (s : State) : Addr := brkTarget (read32 Config.brkVector s).1 s.intb

theorem brk_entered (h : exec .brk s = .next t) : entered (brkVectorOf s) (s.pc + 1) true none s t := by
  obtain ⟨-, hseq⟩ := guarded_eq_next.mp (show execBrk s = .next t from h)
  exact entered_of_touches (read32_touches Config.brkVector s) (intSeq_entered hseq).1

theorem brkVectorOf_cases (s : State) : brkVectorOf s = 0xFFFE4#20 ∨ brkVectorOf s = s.intb := by
  unfold brkVectorOf brkTarget
  split
  · exact .inr rfl
  · exact .inl rfl

/-- Bits put together are the same where both parts are. -/
theorem append_inj {m n : Nat} {x x' : BitVec m} {y y' : BitVec n} : x ++ y = x' ++ y' ↔ x = x' ∧ y = y' := by
  refine ⟨fun h => ⟨?_, ?_⟩, fun ⟨hx, hy⟩ => by rw [hx, hy]⟩
  · rw [← BitVec.extractLsb'_append_eq_left (a := x) (b := y), h, BitVec.extractLsb'_append_eq_left]
  · rw [← BitVec.extractLsb'_append_eq_right (a := x) (b := y), h, BitVec.extractLsb'_append_eq_right]

/-- A word is all ones exactly when both its bytes are. -/
theorem wordAt_eq_allOnes {m : List Host.Cell} {a : Addr} :
    wordAt m a = 0xFFFF#16 ↔ memGet m a.toNat = 0xFF#8 ∧ memGet m (a + 1).toNat = 0xFF#8 := by
  rw [wordAt, show 0xFFFF#16 = 0xFF#8 ++ 0xFF#8 from rfl, append_inj, and_comm]

/-- `BRK` reads its own vector first, and goes on with INTB where that holds FFh four times (R490, D27). -/
theorem brkVectorOf_eq_intb (h : ∀ a ∈ [0xFFFE4#20, 0xFFFE5#20, 0xFFFE6#20, 0xFFFE7#20], s.plain a) :
    brkVectorOf s = s.intb ↔ s.intb = 0xFFFE4#20 ∨
      ∀ a ∈ [0xFFFE4#20, 0xFFFE5#20, 0xFFFE6#20, 0xFFFE7#20], memGet s.mem a.toNat = 0xFF#8 := by
  have hread : (read32 Config.brkVector s).1 = wordAt s.mem 0xFFFE6#20 ++ wordAt s.mem 0xFFFE4#20 :=
    congrArg Prod.fst (read32_plain (h 0xFFFE4#20 (by simp)) (h 0xFFFE5#20 (by simp)) (h 0xFFFE6#20 (by simp))
      (h 0xFFFE7#20 (by simp)))
  have hones : (read32 Config.brkVector s).1 = 0xFFFFFFFF#32 ↔
      ∀ a ∈ [0xFFFE4#20, 0xFFFE5#20, 0xFFFE6#20, 0xFFFE7#20], memGet s.mem a.toNat = 0xFF#8 := by
    rw [hread, show 0xFFFFFFFF#32 = 0xFFFF#16 ++ 0xFFFF#16 from rfl, append_inj, wordAt_eq_allOnes,
      wordAt_eq_allOnes]
    simp only [List.forall_mem_cons]
    constructor
    · rintro ⟨⟨h2, h3⟩, h0, h1⟩
      exact ⟨h0, h1, h2, h3, by simp⟩
    · rintro ⟨h0, h1, h2, h3, -⟩
      exact ⟨⟨h2, h3⟩, h0, h1⟩
  rw [← hones, brkVectorOf, brkTarget]
  split
  · next hall => exact iff_of_true rfl (.inr hall)
  · next hnot => exact ⟨fun h => .inl h.symm, fun h => (h.resolve_right hnot).symm⟩

end

/-- Settles O25: each of the four is the sequence with its vector and the address after it. -/
theorem softwareInterrupts : Obligations.SoftwareInterrupts :=
  ⟨fun _ h => (exec_completes_of_allows h).imp fun _ ht => ⟨ht, und_entered ht⟩,
    fun _ ho h => (exec_completes_of_allows h).imp fun _ ht => ⟨ht, into_entered ho ht⟩,
    fun _ => exec_into_passed,
    fun _ _ h => (exec_completes_of_allows h).imp fun _ ht => ⟨ht, int_entered ht⟩,
    fun s h => (exec_completes_of_allows h).imp fun _ ht =>
      ⟨brkVectorOf s, ht, brkVectorOf_cases s, brk_entered ht, brkVectorOf_eq_intb⟩⟩

/-! `REIT` (R524). -/

/-- FLG read back from the word it makes (R50). -/
theorem Flg.ofWord_toWord (f : Flg) : Flg.ofWord f.toWord = f := by
  have hipl : f.toWord.extractLsb' 12 3 = f.ipl := by
    refine BitVec.eq_of_getLsbD_eq fun k hk => ?_
    rw [BitVec.getLsbD_extractLsb', Flg.toWord_getLsbD]
    interval_cases k <;> simp only [BitVec.getLsbD_append, BitVec.getLsbD_ofBool] <;> simp
  obtain ⟨c, d, z, sg, b, o, i, u, ipl⟩ := f
  simp only [Flg.ofWord, Flg.mk.injEq, Flg.toWord_getLsbD, BitVec.getLsbD_append, BitVec.getLsbD_ofBool]
  simpa using hipl

/-- The word of FLG that a return puts together from the second word of a frame, without the address's four bits. -/
def returnedFlags (v : Word) : Word := v.extractLsb' 12 4 ++ 0#4 ++ v.extractLsb' 0 8

theorem returnedFlags_masked (v : Word) : returnedFlags v &&& 0x70FF#16 = v &&& 0x70FF#16 := by
  refine BitVec.eq_of_getLsbD_eq fun k hk => ?_
  interval_cases k <;>
    simp only [returnedFlags, BitVec.getLsbD_append, BitVec.getLsbD_extractLsb', BitVec.getLsbD_and] <;> simp

/-- The flags of a frame are all there (R562). -/
theorem returnedFlags_frameWord (f : Flg) (ret : Addr) : returnedFlags (frameWord f ret) = f.toWord := by
  refine BitVec.eq_of_getLsbD_eq fun k hk => ?_
  simp only [returnedFlags, frameWord, BitVec.getLsbD_append, BitVec.getLsbD_extractLsb', Flg.toWord_getLsbD]
  interval_cases k <;> simp

section
variable {s : State}

/-- The state after a return has popped the first word of a frame. -/
def firstPopped (s : State) : State := (pop16 (s.openIpl Config.iplWindowReit)).2

theorem pop16_flg (s : State) : (pop16 s).2.flg = s.flg := (readWord_touches (near s.sp) s).flg

/-- The second pop of a return: four bytes above the stack pointer at the start, whatever is read. -/
theorem reit_spOf (s : State) : (pop16 (firstPopped s)).2.spOf s = s.sp + 4 := by
  obtain ⟨hlosp, -⟩ := pop16_result (s.openIpl Config.iplWindowReit)
  obtain ⟨hhisp, -⟩ := pop16_result (firstPopped s)
  have hflg : (pop16 (firstPopped s)).2.flg = s.flg := (pop16_flg _).trans (pop16_flg _)
  rw [State.spOf_eq_of_flg hflg.symm]
  refine hhisp.trans ?_
  rw [firstPopped, hlosp, State.openIpl_sp, BitVec.add_assoc]
  rfl

/-- Both words of a return, where the frame's bytes are plain. -/
theorem reit_words (h : ∀ a ∈ frameBytes s.sp, s.plain a) :
    (pop16 (s.openIpl Config.iplWindowReit)).1 = wordAt s.mem (near s.sp) ∧
      (pop16 (firstPopped s)).1 = wordAt s.mem (near (s.sp + 2)) := by
  obtain ⟨hlosp, hlomem, hloword, -⟩ := pop16_result (s.openIpl Config.iplWindowReit)
  obtain ⟨-, -, hhiword, -⟩ := pop16_result (firstPopped s)
  have hkept {a : Addr} (ha : a ∈ frameBytes s.sp) : (firstPopped s).plain a := (pop16_keeps _).plain (h a ha)
  rw [firstPopped, hlosp, hlomem] at hhiword
  exact ⟨hloword (h _ (by simp [frameBytes, sizeAt])) (h _ (by simp [frameBytes, sizeAt])),
    hhiword (hkept (by simp [frameBytes, sizeAt])) (hkept (by simp [frameBytes, sizeAt]))⟩

/-- The address's high four bits are the low nibble of the frame's last byte. -/
theorem wordAt_nibble (m : List Host.Cell) (a : Addr) :
    (wordAt m a).extractLsb' 8 4 = (memGet m (a + 1).toNat).extractLsb' 0 4 := by
  refine BitVec.eq_of_getLsbD_eq fun k hk => ?_
  rw [wordAt]
  simp only [BitVec.getLsbD_extractLsb', BitVec.getLsbD_append]
  simp [hk]

/-- A frame holds its address. -/
theorem address_of_framed {m : List Host.Cell} {sp : Word} {f : Flg} {ret : Addr} (h : framed m sp f ret) :
    (memGet m (near (sp + 2) + 1).toNat).extractLsb' 0 4 ++ wordAt m (near sp) = ret := by
  obtain ⟨hlo, -⟩ := framed_iff.mp h
  obtain ⟨-, -, -, hhigh⟩ := h
  rw [hhigh, hlo, BitVec.extractLsb'_append_eq_right]
  exact append_extract (m := 4) (n := 16) ret

/-- `REIT` pops two words, and puts `pc` and FLG together from them. -/
theorem reit_next (s : State) : ∃ t, exec .reit s = .next t ∧ t.spOf s = s.sp + 4 ∧
    t.pc = (pop16 (firstPopped s)).1.extractLsb' 8 4 ++ (pop16 (s.openIpl Config.iplWindowReit)).1 ∧
    t.flg = Flg.ofWord (returnedFlags (pop16 (firstPopped s)).1) :=
  ⟨_, rfl, reit_spOf s, rfl, rfl⟩

/-- Settles O26: `pc` and FLG from the two words of the frame. -/
theorem reitResult : Obligations.ReitResult := by
  intro s
  obtain ⟨t, ht, hsp, hpc, hflg⟩ := reit_next s
  refine ⟨t, ht, hsp, fun hplain => ?_⟩
  obtain ⟨hlo, hhi⟩ := reit_words hplain
  rw [hhi, hlo, wordAt_nibble] at hpc
  rw [hhi] at hflg
  refine ⟨hpc, ?_, fun f ret hframe => ⟨hpc.trans (address_of_framed hframe), ?_⟩⟩
  · rw [hflg, Flg.toWord_ofWord, returnedFlags_masked]
  · obtain ⟨-, hword⟩ := framed_iff.mp hframe
    rw [hflg, hword, returnedFlags_frameWord, Flg.ofWord_toWord]

end

/-- Settles O27: the frame that the sequence left is the one that `REIT` finds. -/
theorem reitUndoesIntSeq : Obligations.ReitUndoesIntSeq := by
  intro vec ret clearU level s t u h husp hbytes
  obtain ⟨⟨hframe, htsp, -⟩, -⟩ := intSeq_entered h
  rw [← htsp] at hframe
  obtain ⟨v, hv, hsp, hresult⟩ := reitResult u
  rw [husp] at hsp hresult
  obtain ⟨-, -, hrestored⟩ := hresult fun a ha => (hbytes a ha).1
  obtain ⟨hpc, hflg⟩ := hrestored s.flg ret (framed_congr (fun a ha => (hbytes a ha).2) hframe)
  exact ⟨v, hv, hpc, hflg, by rw [hsp, htsp, BitVec.sub_add_cancel]⟩

end Sys2Proof.Machine
end

section
/-! PROOFS. The stack frame (R493, R496), the task context (R516, R529), control registers and flags (R491, R499, R502,
R512, R514, R518, R526, R527), `NOP` (R519), and `WAIT` (R537). -/

namespace Sys2Proof.Machine

/-! `ENTER` and `EXITD` (R493, R496). -/

section
variable {s : State}

theorem enter_result {v : BitVec 8} {t : State} (h : exec (.enter v) s = .next t) :
    wordAt t.mem (near (s.sp - 2)) = s.bank.fb ∧ t.bank.fb = s.sp - 2 ∧ t.sp = s.sp - 2 - v.setWidth 16 := by
  obtain ⟨-, _, hbody, rfl⟩ := sequential_eq_next.mp (show execEnter v s = .next t from h)
  obtain ⟨u, hu, ⟨⟩⟩ := andThen_eq_next.mp hbody
  have hsp := push16_sp hu
  have hword : wordAt u.mem (near (s.sp - 2)) = s.bank.fb := push16_wordAt hu
  refine ⟨hword, ?_, ?_⟩
  · rw [State.advance_bank, State.setSp_bank, State.setFb_fb, hsp]
  · rw [State.advance_sp, State.setSp_sp, hsp]

/-- The state after `EXITD` has restored FB. -/
def fbRestored (s : State) : State := (pop16 (s.setSp s.bank.fb)).2.setFb (pop16 (s.setSp s.bank.fb)).1

theorem fbRestored_sp : (fbRestored s).sp = s.bank.fb + 2 := by
  obtain ⟨hsp, -⟩ := pop16_result (s.setSp s.bank.fb)
  rw [fbRestored, State.setFb_sp, hsp, State.setSp_sp]

theorem fbRestored_keeps : Keeps [] s (fbRestored s) :=
  (setSp_keeps s s.bank.fb).trans (m := []) ((pop16_keeps _).trans (m := []) (setFb_keeps _ _))

theorem exitd_next (s : State) : ∃ t, exec .exitd s = .next t ∧ t.sp = (pop8 (pop16 (fbRestored s)).2).2.sp ∧
    t.bank = (pop8 (pop16 (fbRestored s)).2).2.bank ∧
    t.pc = (pop8 (pop16 (fbRestored s)).2).1.extractLsb' 0 4 ++ (pop16 (fbRestored s)).1 :=
  ⟨_, rfl, rfl, rfl, rfl⟩

theorem pop8_bank (s : State) : (pop8 s).2.bank = s.bank := (readByte_touches (near s.sp) s).bank

theorem pop16_bank (s : State) : (pop16 s).2.bank = s.bank := (readWord_touches (near s.sp) s).bank

theorem exitd_result (s : State) : ∃ t, exec .exitd s = .next t ∧ t.sp = s.bank.fb + 5 ∧
    ((∀ a ∈ [near s.bank.fb, near s.bank.fb + 1] ++ returnBytes (s.bank.fb + 2), s.plain a) →
      t.bank.fb = wordAt s.mem (near s.bank.fb) ∧
      t.pc = (memGet s.mem (near (s.bank.fb + 4)).toNat).extractLsb' 0 4 ++ wordAt s.mem (near (s.bank.fb + 2))) := by
  obtain ⟨t, ht, hsp, hbank, hpc⟩ := exitd_next s
  obtain ⟨hlosp, hlomem, hloword, -⟩ := pop16_result (fbRestored s)
  obtain ⟨hhisp, -, hhibyte, -⟩ := pop8_result (pop16 (fbRestored s)).2
  rw [fbRestored_sp] at hlosp hloword
  rw [hlosp] at hhisp hhibyte
  have hadd : s.bank.fb + 2 + 2 = s.bank.fb + 4 := by rw [BitVec.add_assoc]; rfl
  refine ⟨t, ht, ?_, fun hplain => ?_⟩
  · rw [hsp, hhisp, hadd, BitVec.add_assoc]
    rfl
  · obtain ⟨-, hfbmem, hfbword, -⟩ := pop16_result (s.setSp s.bank.fb)
    rw [State.setSp_sp] at hfbword
    have hkept {a : Addr} (ha : a ∈ returnBytes (s.bank.fb + 2)) : (fbRestored s).plain a :=
      fbRestored_keeps.plain (hplain a (List.mem_append_right _ ha))
    have hmem : (fbRestored s).mem = s.mem := hfbmem
    have hlast : near (s.bank.fb + 4) ∈ returnBytes (s.bank.fb + 2) := by
      rw [← hadd]
      simp [returnBytes]
    rw [hadd, hlomem, hmem] at hhibyte
    rw [hmem] at hloword
    constructor
    · rw [hbank, pop8_bank, pop16_bank, fbRestored, State.setFb_fb]
      exact hfbword (hplain _ (by simp)) (hplain _ (by simp))
    · rw [hpc, hloword (hkept (by simp [returnBytes])) (hkept (by simp [returnBytes])),
        hhibyte ((pop16_keeps _).plain (hkept hlast))]

end

/-- Settles O58: `ENTER` by its push, `EXITD` by its three pops. -/
theorem stackFrame : Obligations.StackFrame :=
  ⟨fun _ _ h => (exec_completes_of_allows h).imp fun _ ht => ⟨ht, enter_result ht⟩, exitd_result⟩

/-! The task context (R516, R529). -/

section
variable {num : BitVec 16} {table : BitVec 20} {s : State}

/-- Where the entry of the task number stored at abs16 stands. -/
def taskEntry (num : BitVec 16) (table : BitVec 20) (s : State) : Addr :=
  table + BitVec.ofNat 20 (2 * (memGet s.mem num.toNat).toNat)

/-- Register information and correction, where the task number and its entry are plain. -/
theorem taskInfo_plain (hnum : s.plain (near num)) (h0 : s.plain (taskEntry num table s))
    (h1 : s.plain (taskEntry num table s + 1)) : taskInfo num table s =
      (memGet s.mem (taskEntry num table s).toNat, memGet s.mem (taskEntry num table s + 1).toNat, s) := by
  have hnear : (near num).toNat = num.toNat := by
    rw [near, BitVec.toNat_setWidth]
    omega
  have hentry : table + ((memGet s.mem num.toNat).setWidth 20 <<< 1) = taskEntry num table s := by
    rw [taskEntry]
    refine congrArg (table + ·) (BitVec.eq_of_toNat_eq ?_)
    rw [BitVec.toNat_shiftLeft, BitVec.toNat_setWidth, BitVec.toNat_ofNat, Nat.shiftLeft_eq]
    omega
  simp only [taskInfo, readByte_plain hnum, hnear, hentry, readByte_plain h0, readByte_plain h1]

theorem loadRegs_ctx_other {l : List CtxReg} {r : CtxReg} (p : Word) (s : State) (h : r ∉ l) :
    (loadRegs l p s).ctx r = s.ctx r := by
  induction l generalizing p s with
  | nil => rfl
  | cons q l ih =>
    rw [List.mem_cons, not_or] at h
    obtain ⟨hq, hl⟩ := h
    have hread := readWord_touches (near p) s
    obtain ⟨-, -, hsb, -⟩ := hread.registers
    rw [loadRegs, ih _ _ hl, ctx_setCtx, if_neg hq, ctx_eq_of_bank hread.bank hsb]

/-- Each register named once is loaded with the word that lies there for it. -/
theorem loadRegs_spilled {l : List CtxReg} {p : Word} {s : State} (hnodup : l.Nodup)
    (h : ∀ a ∈ spillBytes l.length p, s.plain a) : spilled (loadRegs l p s) s.mem p l := by
  induction l generalizing p s with
  | nil => exact spilled_nil
  | cons r l ih =>
    obtain ⟨hr, hl⟩ := List.nodup_cons.mp hnodup
    rw [List.length_cons, spillBytes_succ] at h
    have hread : readWord (near p) s = (wordAt s.mem (near p), s) :=
      readWord_plain (h _ (by simp [sizeAt])) (h _ (by simp [sizeAt]))
    have hrest := ih (p := p + 2) (s := s.setCtx r (wordAt s.mem (near p))) hl fun a ha =>
      plain_setCtx (h a (List.mem_append_right _ ha))
    rw [mem_setCtx] at hrest
    simp only [loadRegs, hread]
    refine spilled_cons.mpr ⟨?_, hrest⟩
    rw [loadRegs_ctx_other _ _ hr, ctx_setCtx, if_pos rfl]

/-- The words that are stored next leave the word just stored. -/
theorem storeRegs_wordAt {l : List CtxReg} {p : Word} {s t : State} (hl : l.length < 8)
    (h : storeRegs l (p - 2) s = .next t) : wordAt t.mem (near (p - 2)) = wordAt s.mem (near (p - 2)) := by
  have hnodup := pushedBytes_nodup (n := l.length + 1) hl p
  exact wordAt_congr fun a ha =>
    (storeRegs_leaves l (p - 2) s t h).keeps.mem a (List.disjoint_of_nodup_append hnodup ha)

/-- Registers stored one after another lie in the opposite order from the last pointer up. -/
theorem storeRegs_spilled {l : List CtxReg} {p : Word} {s t : State} (hl : l.length ≤ 8)
    (h : storeRegs l p s = .next t) : spilled s t.mem (p - twice l.length) l.reverse := by
  induction l generalizing p s with
  | nil => exact spilled_nil
  | cons r l ih =>
    obtain ⟨u, hu, ht⟩ := andThen_eq_next.mp h
    have hstore : Touches _ s u := writeMem_touches (z := .w) hu
    have hword : wordAt u.mem (near (p - 2)) = s.ctx r := (writeMem_result (z := .w) hu).1
    obtain ⟨-, -, hsb, -⟩ := hstore.registers
    have hbase : p - twice (r :: l).length = p - 2 - twice l.length := by
      rw [List.length_cons, twice_succ, BitVec.sub_sub]
    rw [List.reverse_cons, spilled_concat, List.length_reverse, hbase, BitVec.sub_add_cancel]
    exact ⟨spilled_ctx_congr (ctx_eq_of_bank hstore.bank hsb).symm (ih (Nat.le_of_succ_le hl) ht),
      (storeRegs_wordAt hl ht).trans hword⟩

theorem exec_ldctx (num : BitVec 16) (table : BitVec 20) (s : State) : exec (.ldctx num table) s =
    .next (((loadRegs (selected ctxRegs 0 (taskInfo num table s).1) s.sp (taskInfo num table s).2.2).setSp
      (s.sp + (taskInfo num table s).2.1.setWidth 16)).advance (Instr.ldctx num table).length) := rfl

theorem ldctx_result {info corr : Byte} (htask : taskInfo num table s = (info, corr, s))
    (h : ∀ a ∈ spillBytes (listed info).length s.sp, s.plain a) : ∃ t, exec (.ldctx num table) s = .next t ∧
      t.sp = s.sp + corr.setWidth 16 ∧ spilled t s.mem s.sp (listed info) := by
  have hexec := exec_ldctx num table s
  rw [htask, selected_ctxRegs] at hexec
  refine ⟨_, hexec, ?_, loadRegs_spilled (listed_nodup info) h⟩
  rw [State.advance_sp, State.setSp_sp]

theorem stctx_result {info corr : Byte} {t : State} (htask : taskInfo num table s = (info, corr, s))
    (h : exec (.stctx num table) s = .next t) : t.sp = s.sp - corr.setWidth 16 ∧
      spilled s t.mem (s.sp - twice (listed info).length) (listed info) := by
  obtain ⟨-, _, hbody, rfl⟩ := sequential_eq_next.mp (show execStctx num table s = .next t from h)
  simp only [htask, selected_ctxRegs] at hbody
  obtain ⟨u, hu, ⟨⟩⟩ := andThen_eq_next.mp hbody
  have hsaved := storeRegs_spilled (by simpa using length_listed_le info) hu
  rw [List.length_reverse, List.reverse_reverse] at hsaved
  exact ⟨by rw [State.advance_sp, State.setSp_sp], hsaved⟩

end

/-- Settles O59: both read the task's entry, then load or store its registers word by word. -/
theorem taskContext : Obligations.TaskContext := by
  refine ⟨fun num table s => ⟨_, exec_ldctx num table s⟩, fun num table s hnum h0 h1 => ?_⟩
  have htask := taskInfo_plain hnum h0 h1
  exact ⟨_, _, rfl, rfl, ldctx_result htask, fun h =>
    (exec_completes_of_allows h).imp fun _ ht => ⟨ht, stctx_result htask ht⟩⟩

/-! Control registers and flags (R491, R499, R502, R512, R514, R518, R526, R527), `NOP` and `WAIT` (R519, R537). -/

theorem Flg.put_get (f : Flg) (n : FlagName) (v : Bool) : (f.put n v).get n = v := by cases n <;> rfl

theorem exec_fset (f : FlagName) (s : State) :
    exec (.fset f) s = .next ((putFlag f true s).advance (Instr.fset f).length) := rfl

theorem exec_fclr (f : FlagName) (s : State) :
    exec (.fclr f) s = .next ((putFlag f false s).advance (Instr.fclr f).length) := rfl

theorem exec_ldcImm (v : BitVec 16) (c : CReg) (s : State) :
    exec (.ldcImm v c) s = .next ((loadCreg c v s s).advance (Instr.ldcImm v c).length) := rfl

theorem exec_ldcSrc (src : Operand) (c : CReg) (s : State) : exec (.ldcSrc src c) s =
    .next ((loadCreg c (readLoc .w (s.loc src) s).1 s (readLoc .w (s.loc src) s).2).advance
      (Instr.ldcSrc src c).length) := rfl

theorem readLoc_intb (z : Size) (l : Loc) (s : State) : (readLoc z l s).2.intb = s.intb := by
  obtain ⟨-, -, -, hintb, -⟩ := (readLoc_touches z l s).registers
  exact hintb

/-- A control register after it is loaded, in whatever state that happens. -/
theorem loadCreg_creg (c : CReg) (v : Word) (s t : State) : (loadCreg c v s t).creg c = cregBits c v := by
  rw [← State.setCreg_creg t c v]
  cases c <;> rfl

/-- INTB after a load of one of its halves: the other half stays. -/
theorem loadCreg_intb (c : CReg) (v : Word) (s : State) {t : State} (h : t.intb = s.intb) :
    (c = .intbl → (loadCreg c v s t).intb = s.intb.extractLsb' 16 4 ++ v) ∧
      (c = .intbh → (loadCreg c v s t).intb = v.extractLsb' 0 4 ++ s.intb.extractLsb' 0 16) := by
  rw [← h]
  constructor
  · rintro rfl
    rfl
  · rintro rfl
    rfl

/-- An address with zeros in front (D25). -/
theorem setWidth_addr {n : Nat} (a : Addr) : a.setWidth (n + 20) = 0#n ++ a := by
  apply BitVec.eq_of_toNat_eq
  rw [BitVec.toNat_setWidth_of_le (by omega), BitVec.toNat_append]
  simp

theorem exec_stcPc_pair (p : Pair) (s : State) : exec (.stcPc (.pair p)) s =
    .next ((s.setPair p ((s.next 2).setWidth 32)).advance (Instr.stcPc (.pair p)).length) := rfl

theorem stcDest_result {c : CReg} {dst : Operand} {s t : State} (h : exec (.stcDest c dst) s = .next t) :
    t.valueAt .w (s.loc dst) = s.creg c := by
  obtain ⟨-, u, hu, rfl⟩ := sequential_eq_next.mp (show execStcDest c dst s = .next t from h)
  rw [State.valueAt_advance]
  exact (writeLoc_result hu).1

/-- Three bytes stored lie there as a word and a byte. -/
theorem write24_value {k : StoreKind} {a : Addr} {v : BitVec 24} {s t : State} (h : write24 k a v s = .next t) :
    memGet t.mem (a + 2).toNat ++ wordAt t.mem a = v := by
  have hw := (h ▸ write24_acts k a v s).writable_of_next
  obtain ⟨u, hu, h0, h1, h2, -⟩ := write24_result (k := k) v (hw a (by simp)) (hw (a + 1) (by simp))
    (hw (a + 2) (by simp))
  cases h.symm.trans hu
  rw [wordAt, h0, h1, h2, BitVec.extractLsb'_append_extractLsb'_eq_extractLsb' (by decide)]
  exact append_extract (m := 8) (n := 16) v

theorem stcPc_result {e : Ea} {s t : State} (h : exec (.stcPc (.mem e)) s = .next t) :
    memGet t.mem (near (s.ea e) + 2).toNat ++ wordAt t.mem (near (s.ea e)) =
      0#4 ++ (s.pc + BitVec.ofNat 20 (Instr.stcPc (.mem e)).length) := by
  obtain ⟨-, u, hu, rfl⟩ := sequential_eq_next.mp (show execStcPc (.mem e) s = .next t from h)
  exact (write24_value hu).trans (setWidth_addr (n := 4) _)

/-- Settles O60: each by the one register or flag it writes. -/
theorem controlRegisters : Obligations.ControlRegisters :=
  ⟨fun f s => ⟨_, exec_fset f s, Flg.put_get s.flg f true⟩,
    fun f s => ⟨_, exec_fclr f s, Flg.put_get s.flg f false⟩,
    fun _ _ => ⟨_, rfl, rfl⟩,
    fun v c s => ⟨_, exec_ldcImm v c s, (State.advance_creg ..).trans (loadCreg_creg c v s s),
      loadCreg_intb c v s rfl⟩,
    fun src c s => ⟨_, exec_ldcSrc src c s, (State.advance_creg ..).trans (loadCreg_creg c _ s _),
      loadCreg_intb c _ s (readLoc_intb .w (s.loc src) s)⟩,
    fun _ _ _ h => (exec_completes_of_allows h).imp fun _ ht => ⟨ht, stcDest_result ht⟩,
    fun p s => ⟨_, exec_stcPc_pair p s, (State.setPair_pair s p _).trans (setWidth_addr (n := 12) _)⟩,
    fun _ _ h => (exec_completes_of_allows h).imp fun _ ht => ⟨ht, stcPc_result ht⟩,
    fun _ => rfl, fun _ => rfl⟩

/-! While waiting (R537). -/

/-- Where requests are examined and none is accepted, a waiting machine only counts the draws of the test. -/
theorem step_of_waiting {s : State} (hwait : s.waiting = true) (hreset : s.resetReq = false)
    (hnone : (chooseHw s).1 = none) : step s = .next { s with draws := (chooseHw s).2 } := by
  have hhw : chooseHw s = (none, (chooseHw s).2) := Prod.ext hnone rfl
  rw [step, cpuStep, hhw]
  simp [hreset, hwait]

/-- Settles O28: the draws are the only difference. -/
theorem waitFrozen : Obligations.WaitFrozen := fun _ hwait hreset hnone => ⟨_, step_of_waiting hwait hreset hnone⟩

end Sys2Proof.Machine
end

section
/-! PROOFS. Which request is accepted (R550, R553, R556, R559, R570, R613, R615). -/

namespace Sys2Proof.Machine

/-! What the acceptance test may see (R613, R615). -/

/-- The IPL judged is the present one or that of an open window. -/
theorem judgeIpl_sees (l : List (BitVec 3 × Nat)) (cur : BitVec 3) (n : Nat) :
    (judgeIpl l cur n).1 = cur ∨ ∃ w ∈ l, 0 < w.2 ∧ w.1 = (judgeIpl l cur n).1 := by
  induction l generalizing cur n with
  | nil => exact .inl rfl
  | cons w l ih =>
    obtain ⟨old, left⟩ := w
    unfold judgeIpl
    split
    · exact (ih cur n).imp_right fun ⟨w, hw, hopen⟩ => ⟨w, List.mem_cons_of_mem _ hw, hopen⟩
    · next hleft =>
      rcases ih (if Config.freeBit n then old else cur) (n + 1) with h | ⟨w, hw, hopen⟩
      · rw [h]
        split
        · exact .inr ⟨_, List.mem_cons_self, Nat.pos_of_ne_zero hleft, rfl⟩
        · exact .inl rfl
      · exact .inr ⟨w, List.mem_cons_of_mem _ hw, hopen⟩

/-- Request bit and level judged are, each on its own, the present ones or those of an open window. -/
theorem judgeSource_sees (l : List Window) (cur : Bool × BitVec 3) (n : Nat) :
    ((judgeSource l cur n).1.1 = cur.1 ∨ ∃ w ∈ l, 0 < w.left ∧ w.ir = (judgeSource l cur n).1.1) ∧
      ((judgeSource l cur n).1.2 = cur.2 ∨ ∃ w ∈ l, 0 < w.left ∧ w.level = (judgeSource l cur n).1.2) := by
  induction l generalizing cur n with
  | nil => exact ⟨.inl rfl, .inl rfl⟩
  | cons w l ih =>
    unfold judgeSource
    split
    · obtain ⟨hir, hlvl⟩ := ih cur n
      exact ⟨hir.imp_right fun ⟨w, hw, hopen⟩ => ⟨w, List.mem_cons_of_mem _ hw, hopen⟩,
        hlvl.imp_right fun ⟨w, hw, hopen⟩ => ⟨w, List.mem_cons_of_mem _ hw, hopen⟩⟩
    · next hleft =>
      have hpos : 0 < w.left := Nat.pos_of_ne_zero hleft
      obtain ⟨hir, hlvl⟩ := ih
        (if Config.freeBit n then w.ir else cur.1, if Config.freeBit (n + 1) then w.level else cur.2) (n + 2)
      constructor
      · rcases hir with h | ⟨v, hv, hopen⟩
        · rw [h]
          dsimp only
          split
          · exact .inr ⟨w, List.mem_cons_self, hpos, rfl⟩
          · exact .inl rfl
        · exact .inr ⟨v, List.mem_cons_of_mem _ hv, hopen⟩
      · rcases hlvl with h | ⟨v, hv, hopen⟩
        · rw [h]
          dsimp only
          split
          · exact .inr ⟨w, List.mem_cons_self, hpos, rfl⟩
          · exact .inl rfl
        · exact .inr ⟨v, List.mem_cons_of_mem _ hv, hopen⟩

/-- Each source is judged at its own position. -/
theorem judgeAll_getElem? (l : List Source) (n k : Nat) : ∃ m,
    (judgeAll l n).1[k]? = (l[k]?).map fun x => (judgeSource x.old (x.ir, x.ilvl) m).1 := by
  induction l generalizing n k with
  | nil => exact ⟨n, rfl⟩
  | cons x l ih =>
    cases k with
    | zero => exact ⟨n, rfl⟩
    | succ k => exact ih _ k

/-! The requests judged, and the choice among them (R553, R570). -/

/-- The IPL that the acceptance test judges. -/
def State.judgedIpl (s : State) : BitVec 3 := (judgeIpl s.iplOld s.flg.ipl s.draws).1

/-- Request bits and levels that the acceptance test judges. -/
def State.judgedSources (s : State) : List (Bool × BitVec 3) :=
  (judgeAll s.sources (judgeIpl s.iplOld s.flg.ipl s.draws).2).1

/-- The requests among which the test chooses. -/
def State.judged (s : State) : List (Bool × BitVec 3) :=
  s.judgedSources.map fun p => (s.judgeI && p.1 && decide (s.judgedIpl.toNat < p.2.toNat), p.2)

theorem choosePeripheral_eq (s : State) : (choosePeripheral s).1 = (bestOf 0 s.judged).map Prod.fst := rfl

section
variable {s : State} {k : Nat} {lvl : BitVec 3}

theorem judged_getElem? : s.judged[k]? = some (true, lvl) ↔
    s.judgeI = true ∧ s.judgedSources[k]? = some (true, lvl) ∧ s.judgedIpl.toNat < lvl.toNat := by
  simp only [State.judged, List.getElem?_map, Option.map_eq_some_iff, Prod.mk.injEq, Bool.and_eq_true,
    decide_eq_true_eq]
  constructor
  · rintro ⟨⟨req, l⟩, hp, ⟨⟨hI, rfl⟩, hlt⟩, rfl⟩
    exact ⟨hI, hp, hlt⟩
  · rintro ⟨hI, hp, hlt⟩
    exact ⟨_, hp, ⟨⟨hI, rfl⟩, hlt⟩, rfl⟩

/-- A source judged at a position is the one there, on a request bit and a level it may show. -/
theorem judgedSources_sees {x : Source} (hx : s.sources[k]? = some x) :
    ∃ p, s.judgedSources[k]? = some p ∧ x.mayShow p.1 ∧ x.mayLevel p.2 := by
  obtain ⟨m, hm⟩ := judgeAll_getElem? s.sources (judgeIpl s.iplOld s.flg.ipl s.draws).2 k
  rw [hx] at hm
  exact ⟨_, hm, judgeSource_sees x.old (x.ir, x.ilvl) m⟩

theorem judgedIpl_sees (s : State) : s.mayJudgeIpl s.judgedIpl := judgeIpl_sees s.iplOld s.flg.ipl s.draws

/-- A request is chosen at the position of a source whose request is judged. -/
theorem choosePeripheral_eq_some (h : (choosePeripheral s).1 = some k) : ∃ lvl, s.judged[k]? = some (true, lvl) ∧
    ∀ (j : Nat) (l : BitVec 3), s.judged[j]? = some (true, l) → l.toNat < lvl.toNat ∨ (l = lvl ∧ k ≤ j) := by
  rw [choosePeripheral_eq, Option.map_eq_some_iff] at h
  obtain ⟨⟨_, lvl⟩, hbest, rfl⟩ := h
  obtain ⟨i, hi, htop, hmax⟩ := bestOf_eq_some hbest
  obtain rfl := hi.trans (Nat.zero_add i)
  exact ⟨lvl, htop, hmax⟩

/-- Where some request is judged, one is chosen. -/
theorem choosePeripheral_ne_none (h : s.judged[k]? = some (true, lvl)) : (choosePeripheral s).1 ≠ none := by
  rw [choosePeripheral_eq, ne_eq, Option.map_eq_none_iff]
  exact fun hnone => bestOf_eq_none hnone k lvl h

/-- A chosen source is acceptable on values of its own or of open windows. -/
theorem chosen_sees (h : (choosePeripheral s).1 = some k) : s.judgeI = true ∧ ∃ x, s.sources[k]? = some x ∧
    x.mayShow true ∧ ∃ l p, x.mayLevel l ∧ s.mayJudgeIpl p ∧ p.toNat < l.toNat := by
  obtain ⟨lvl, htop, -⟩ := choosePeripheral_eq_some h
  obtain ⟨hI, hp, hlt⟩ := judged_getElem?.mp htop
  obtain ⟨m, hm⟩ := judgeAll_getElem? s.sources (judgeIpl s.iplOld s.flg.ipl s.draws).2 k
  obtain ⟨x, hx, -⟩ := Option.map_eq_some_iff.mp (hm.symm.trans hp)
  obtain ⟨q, hq, hshow, hlevel⟩ := judgedSources_sees hx
  cases hp.symm.trans hq
  exact ⟨hI, x, hx, hshow, lvl, s.judgedIpl, hlevel, judgedIpl_sees s, hlt⟩

/-- A source that is acceptable whatever is seen is not passed over. -/
theorem chosen_of_sees {x : Source} (hx : x ∈ s.sources) (hI : s.judgeI = true) (hshow : ¬ x.mayShow false)
    (hlvl : ∀ l p, x.mayLevel l → s.mayJudgeIpl p → p.toNat < l.toNat) : (choosePeripheral s).1 ≠ none := by
  obtain ⟨k, hk⟩ := List.mem_iff_getElem?.mp hx
  obtain ⟨⟨req, l⟩, hp, hreq, hl⟩ := judgedSources_sees hk
  cases req with
  | false => exact absurd hreq hshow
  | true => exact choosePeripheral_ne_none (judged_getElem?.mpr ⟨hI, hp, hlvl l _ hl (judgedIpl_sees s)⟩)

/-! Without an open window (R553, R570). -/

/-- Without windows the sources are judged as they are. -/
theorem judgeAll_settled {l : List Source} (h : ∀ x ∈ l, x.old = []) (n : Nat) :
    (judgeAll l n).1 = l.map fun x => (x.ir, x.ilvl) := by
  induction l generalizing n with
  | nil => rfl
  | cons x l ih =>
    rw [List.forall_mem_cons] at h
    obtain ⟨hx, hl⟩ := h
    simp only [judgeAll, hx, judgeSource, List.map_cons, ih hl]

theorem judged_settled (h : s.settled) : s.judged[k]? = some (true, lvl) ↔
    ∃ x, s.sources[k]? = some x ∧ s.acceptable x ∧ x.ilvl = lvl := by
  obtain ⟨hipl, hold⟩ := h
  have hjudged : s.judgedIpl = s.flg.ipl := by rw [State.judgedIpl, hipl]; rfl
  rw [judged_getElem?, hjudged, State.judgedSources, judgeAll_settled hold]
  simp only [List.getElem?_map, Option.map_eq_some_iff, Prod.mk.injEq, State.acceptable]
  constructor
  · rintro ⟨hI, ⟨x, hx, hir, rfl⟩, hlt⟩
    exact ⟨x, hx, ⟨hI, hir, hlt⟩, rfl⟩
  · rintro ⟨x, hx, ⟨hI, hir, hlt⟩, rfl⟩
    exact ⟨hI, ⟨x, hx, hir, rfl⟩, hlt⟩

/-- Two sources of which each outranks the other stand at one position. -/
theorem outranks_unique {l : List Source} {p : Source → Prop} {j : Nat} {x y : Source} (hx : l[k]? = some x)
    (hy : l[j]? = some y) (hpx : p x) (hpy : p y) (h : outranks l p k x) (h' : outranks l p j y) : k = j := by
  rcases h j y hy hpy with h1 | ⟨e1, h1⟩ <;> rcases h' k x hx hpx with h2 | ⟨e2, h2⟩
  · omega
  · rw [e2] at h1
    omega
  · rw [e1] at h2
    omega
  · omega

/-- Without windows exactly the acceptable source that outranks all acceptable ones is chosen. -/
theorem chosen_settled (h : s.settled) : (choosePeripheral s).1 = some k ↔
    ∃ x, s.sources[k]? = some x ∧ s.acceptable x ∧ outranks s.sources s.acceptable k x := by
  have hchosen {k : Nat} (hk : (choosePeripheral s).1 = some k) :
      ∃ x, s.sources[k]? = some x ∧ s.acceptable x ∧ outranks s.sources s.acceptable k x := by
    obtain ⟨lvl, htop, hmax⟩ := choosePeripheral_eq_some hk
    obtain ⟨x, hx, hacc, rfl⟩ := (judged_settled h).mp htop
    exact ⟨x, hx, hacc, fun j y hy hyacc => hmax j y.ilvl ((judged_settled h).mpr ⟨y, hy, hyacc, rfl⟩)⟩
  refine ⟨hchosen, fun ⟨x, hx, hacc, hout⟩ => ?_⟩
  obtain ⟨j, hj⟩ := Option.ne_none_iff_exists'.mp
    (choosePeripheral_ne_none ((judged_settled h).mpr ⟨x, hx, hacc, rfl⟩))
  obtain ⟨y, hy, hyacc, hyout⟩ := hchosen hj
  rw [hj, outranks_unique hx hy hacc hyacc hout hyout]

/-! The order of the requests (R570). -/

/-- A match is pending where the product has it, and it was not accepted earlier or arises here (R550, R556). -/
theorem matchPending_iff : s.matchPending = true ↔ s.product.addressMatch = true ∧
    (s.matchReq = true ∨ (s.waiting = false ∧ s.resume = none ∧
      ∃ m ∈ s.matchRegs, m.enabled = true ∧ m.addr = s.pc)) := by
  simp only [State.matchPending, State.addressMatches, Bool.and_eq_true, Bool.or_eq_true, Bool.not_eq_true',
    Option.isNone_iff_eq_none, List.any_eq_true, beq_iff_eq]
  tauto

section
variable (hnmi : s.nmiReq = false) (hdbc : (s.dbcReq && s.product.dbc) = false) (hwdt : s.wdtReq = false)
include hnmi hdbc hwdt

theorem chooseHw_peripheral (h : (choosePeripheral s).1 = some k) : (chooseHw s).1 = some (.peripheral k) := by
  simp [chooseHw, hnmi, hdbc, hwdt, h]

theorem chooseHw_step (h : (choosePeripheral s).1 = none) (hstep : s.stepReq = true) :
    (chooseHw s).1 = some .step := by
  simp [chooseHw, hnmi, hdbc, hwdt, h, hstep]

theorem chooseHw_addressMatch (h : (choosePeripheral s).1 = none) (hstep : s.stepReq = false) :
    (chooseHw s).1 = some .addressMatch ↔ s.matchPending = true := by
  simp [chooseHw, hnmi, hdbc, hwdt, h, hstep]

end

end

/-- Settles O29: the choice among the sources without and with windows, and then the order of all requests. -/
theorem requestChoice : Obligations.RequestChoice := by
  refine ⟨fun s h k => chosen_settled h, fun s k => chosen_sees, fun s x hx => chosen_of_sees hx,
    fun s => ⟨fun hnmi => ?_, fun hnmi hreq hdbc => ?_, fun hnmi hdbc hwdt => ?_, fun hnmi hdbc hwdt => ?_⟩⟩
  · simp [chooseHw, hnmi]
  · simp [chooseHw, hnmi, hreq, hdbc]
  · simp [chooseHw, hnmi, hdbc, hwdt]
  · exact ⟨fun k => chooseHw_peripheral hnmi hdbc hwdt, fun hper =>
      ⟨chooseHw_step hnmi hdbc hwdt hper, fun hstep =>
        (chooseHw_addressMatch hnmi hdbc hwdt hper hstep).trans matchPending_iff⟩⟩

end Sys2Proof.Machine
end

section
/-! PROOFS. What an instruction leaves of the interrupt sources and requests (R552, R555, R557, R631). One relation,
`Observes`, carries request bits together with the reads in the trace through the shared operations. -/

namespace Sys2Proof.Machine

/-! Request bits after some reads and stores. -/

/-- What reads of the listed bytes, and any stores, do to a source: no window is lost, and where none was opened, so
that nothing was stored to its register, the request bit was raised only by a read of the register and cleared only by a
read of 00000h (R555, R557). -/
structure RequestKept (r : List Addr) (x y : Source) : Prop where
  icr : y.icr = x.icr
  windows : x.old.length ≤ y.old.length
  raised : y.old.length = x.old.length → x.icr ∉ r → y.ir = true → x.ir = true
  cleared : y.old.length = x.old.length → 0#20 ∉ r → x.ir = true → y.ir = true

theorem RequestKept.refl (r : List Addr) (x : Source) : RequestKept r x x :=
  ⟨rfl, le_rfl, fun _ _ => id, fun _ _ => id⟩

theorem RequestKept.trans {r r' : List Addr} {x y z : Source} (h : RequestKept r x y) (k : RequestKept r' y z) :
    RequestKept (r ++ r') x z where
  icr := k.icr.trans h.icr
  windows := h.windows.trans k.windows
  raised hlen hr hz := by
    have hxy := h.windows
    have hyz := k.windows
    rw [List.mem_append, not_or] at hr
    exact h.raised (by omega) hr.1 (k.raised (by omega) (by rw [h.icr]; exact hr.2) hz)
  cleared hlen hr hx := by
    have hxy := h.windows
    have hyz := k.windows
    rw [List.mem_append, not_or] at hr
    exact k.cleared (by omega) hr.2 (h.cleared (by omega) hr.1 hx)

/-- Every source after reads of the listed bytes and any stores. -/
structure Polled (r : List Addr) (s t : State) : Prop where
  product : t.product = s.product
  sources : ∀ (k : Nat) (x : Source), s.sources[k]? = some x → ∃ y : Source, t.sources[k]? = some y ∧ RequestKept r x y

section
variable {r r' : List Addr} {s t u : State}

theorem Polled.of_eq (hp : t.product = s.product) (hs : t.sources = s.sources) : Polled r s t :=
  ⟨hp, fun _ x hx => ⟨x, hs ▸ hx, .refl r x⟩⟩

theorem Polled.trans (h : Polled r s t) (k : Polled r' t u) : Polled (r ++ r') s u where
  product := k.product.trans h.product
  sources j x hx := by
    obtain ⟨y, hy, hxy⟩ := h.sources j x hx
    obtain ⟨z, hz, hyz⟩ := k.sources j y hy
    exact ⟨z, hz, hxy.trans hyz⟩

/-- A byte read raises at most the request whose register it is, and clears one only at 00000h. -/
theorem busRead_polled (a : Addr) (s : State) : Polled [a] s (busRead a s).2 := by
  refine ⟨rfl, fun k x hx => ?_⟩
  by_cases ha : a = 0#20
  · have hsources : (busRead a s).2.sources = clearBest s.sources := if_pos ha
    rw [hsources]
    rcases clearBest_getElem? hx with ⟨-, hy⟩ | ⟨-, hy⟩
    · exact ⟨_, hy, rfl, le_rfl, fun _ _ h => absurd h Bool.false_ne_true, fun _ hno => absurd (by simp [ha]) hno⟩
    · exact ⟨x, hy, .refl _ x⟩
  · have hsources : (busRead a s).2.sources = raiseAt a (Config.freeBit s.draws) s.sources := if_neg ha
    obtain ⟨ir, hy, hother, hset⟩ := raiseAt_getElem? (a := a) (b := Config.freeBit s.draws) hx
    rw [hsources]
    exact ⟨_, hy, rfl, le_rfl, fun _ hno hir => hother (by simpa using hno) ▸ hir, fun _ _ => hset⟩

/-- A store opens a window on the source whose register it is, and leaves the others. -/
theorem storeIcr_requestKept (a : Addr) (v : Byte) (keep : Bool) (n : Nat) (x : Source) :
    RequestKept [] x (storeIcr a v keep n x) := by
  unfold storeIcr
  split
  · exact ⟨rfl, Nat.le_succ _, fun h => absurd h (Nat.succ_ne_self _), fun h => absurd h (Nat.succ_ne_self _)⟩
  · exact .refl [] x

theorem stored_polled (k : StoreKind) (a : Addr) (v : Byte) (s : State) : Polled [] s (stored k a v s) :=
  ⟨rfl, fun j x hx => ⟨_, by simp only [stored, List.getElem?_map, hx, Option.map_some]; rfl,
    storeIcr_requestKept a v _ _ x⟩⟩

/-! The reads in the trace (R631). -/

/-- The trace grew, and shows every listed byte that is in the SFR area as read. -/
structure Observed (r : List Addr) (s t : State) : Prop extends Polled r s t where
  trace : ∃ added : List SfrAccess, t.sfrTrace = added ++ s.sfrTrace ∧
    ∀ b ∈ r, s.isSfr b = true → ∃ e ∈ added, e.dir = .read ∧ e.covers b

theorem Observed.of_eq (hp : t.product = s.product) (hs : t.sources = s.sources) (ht : t.sfrTrace = s.sfrTrace) :
    Observed [] s t :=
  ⟨.of_eq hp hs, [], ht, fun _ hb => absurd hb List.not_mem_nil⟩

theorem isSfr_congr (h : t.product = s.product) (a : Addr) : t.isSfr a = s.isSfr a := by
  simp only [State.isSfr, h]

theorem Observed.trans (h : Observed r s t) (k : Observed r' t u) : Observed (r ++ r') s u where
  toPolled := h.toPolled.trans k.toPolled
  trace := by
    obtain ⟨l, hl, hread⟩ := h.trace
    obtain ⟨m, hm, hread'⟩ := k.trace
    refine ⟨m ++ l, by rw [hm, hl, List.append_assoc], fun b hb hsfr => ?_⟩
    rcases List.mem_append.mp hb with hb | hb
    · obtain ⟨e, he, hcovers⟩ := hread b hb hsfr
      exact ⟨e, List.mem_append_right _ he, hcovers⟩
    · obtain ⟨e, he, hcovers⟩ := hread' b hb (by rw [isSfr_congr h.product]; exact hsfr)
      exact ⟨e, List.mem_append_left _ he, hcovers⟩

/-- The bytes of an access of `n` bytes. -/
def accessBytes (a : Addr) (n : Nat) : List Addr := (List.range n).map fun k => a + BitVec.ofNat 20 k

/-- A recorded read shows all its bytes. -/
theorem record_read_observed {a : Addr} {n : Nat} (hn : n < 2 ^ 20) (v : BitVec 32)
    (h : Polled (accessBytes a n) s t) (htrace : t.sfrTrace = s.sfrTrace) :
    Observed (accessBytes a n) s (t.record .read a n v) := by
  refine ⟨⟨h.product, h.sources⟩, ?_⟩
  by_cases htouch : t.touchesSfr a n = true
  · refine ⟨[{ addr := a, width := n, value := v, dir := .read }], ?_, fun b hb _ =>
      ⟨_, List.mem_singleton.mpr rfl, rfl, ?_⟩⟩
    · simp [State.record, htouch, htrace]
    · obtain ⟨k, hk, rfl⟩ := List.mem_map.mp hb
      rw [List.mem_range] at hk
      rw [SfrAccess.covers, BitVec.add_comm, BitVec.add_sub_cancel, BitVec.toNat_ofNat,
        Nat.mod_eq_of_lt (hk.trans hn)]
      exact hk
  · refine ⟨[], ?_, fun b hb hsfr => absurd ?_ htouch⟩
    · simp [State.record, htouch, htrace]
    · obtain ⟨k, hk, rfl⟩ := List.mem_map.mp hb
      rw [← isSfr_congr h.product] at hsfr
      exact List.any_eq_true.mpr ⟨k, hk, hsfr⟩

/-- A recorded store adds an entry that is no read. -/
theorem record_write_observed (a : Addr) (n : Nat) (v : BitVec 32) (h : Observed r s t) :
    Observed r s (t.record .write a n v) := by
  refine ⟨⟨h.product, h.sources⟩, ?_⟩
  obtain ⟨l, hl, hread⟩ := h.trace
  unfold State.record
  split
  · exact ⟨_ :: l, congrArg (List.cons _) hl, fun b hb hsfr =>
      (hread b hb hsfr).imp fun e ⟨he, hcovers⟩ => ⟨List.mem_cons_of_mem _ he, hcovers⟩⟩
  · exact ⟨l, hl, hread⟩

theorem readByte_observed (a : Addr) (s : State) : Observed (accessBytes a 1) s (readByte a s).2 := by
  have h : Polled (accessBytes a 1) s (busRead a s).2 := by
    simpa [accessBytes] using busRead_polled a s
  exact record_read_observed (by decide) _ h rfl

theorem busReadWord_polled (a : Addr) (s : State) : Polled [a, a + 1] s (busReadWord a s).2 :=
  (busRead_polled a s).trans (busRead_polled (a + 1) _)

theorem readWord_observed (a : Addr) (s : State) : Observed (accessBytes a 2) s (readWord a s).2 := by
  have h : Polled (accessBytes a 2) s (busReadWord a s).2 := by
    simpa [accessBytes, List.range_succ] using busReadWord_polled a s
  exact record_read_observed (by decide) _ h rfl

theorem read24_observed (a : Addr) (s : State) : Observed (accessBytes a 3) s (read24 a s).2 := by
  have h : Polled (accessBytes a 3) s (busRead (a + 2) (busReadWord a s).2).2 := by
    simpa [accessBytes, List.range_succ] using (busReadWord_polled a s).trans (busRead_polled (a + 2) _)
  simp only [read24, recordRead]
  exact record_read_observed (by decide) _ h rfl

theorem read32_observed (a : Addr) (s : State) : Observed (accessBytes a 4) s (read32 a s).2 := by
  have h : Polled (accessBytes a 4) s (busReadWord (a + 2) (busReadWord a s).2).2 := by
    simpa [accessBytes, List.range_succ, BitVec.add_assoc] using
      (busReadWord_polled a s).trans (busReadWord_polled (a + 2) _)
  have htrace : (busReadWord (a + 2) (busReadWord a s).2).2.sfrTrace = s.sfrTrace :=
    (busReadWord_sfrTrace (a + 2) _).trans (busReadWord_sfrTrace a s)
  simp only [read32, recordRead]
  exact record_read_observed (by decide) _ h htrace

end

/-! The relation through the shared operations. -/

/-- The parts of the state that requests and the trace depend on. -/
def State.bus (s : State) : Product × List Source × List SfrAccess := (s.product, s.sources, s.sfrTrace)

/-- Requests changed only as the reads in the trace, and stores, allow. -/
def Observes (s t : State) : Prop := ∃ r, Observed r s t

/-- Wherever the operation goes on, requests changed as the trace allows. -/
def Observing (s : State) (r : Result) : Prop := ∀ t, r = .next t → Observes s t

section
variable {r : List Addr} {s t u : State} {res res' : Result}

theorem Observed.observes (h : Observed r s t) : Observes s t := ⟨r, h⟩

theorem Observed.of_bus (h : t.bus = s.bus) : Observed [] s t := by
  simp only [State.bus, Prod.mk.injEq] at h
  obtain ⟨hp, hs, ht⟩ := h
  exact .of_eq hp hs ht

theorem Observes.of_bus (h : t.bus = s.bus) : Observes s t := (Observed.of_bus h).observes

theorem Observes.refl (s : State) : Observes s s := .of_bus rfl

theorem Observes.trans (h : Observes s t) (k : Observes t u) : Observes s u := by
  obtain ⟨r, h⟩ := h
  obtain ⟨r', k⟩ := k
  exact ⟨r ++ r', h.trans k⟩

/-- An update of registers after an operation. -/
theorem Observes.then (h : Observes s t) (k : u.bus = t.bus) : Observes s u := h.trans (.of_bus k)

theorem Observes.setFlg (h : Observes s t) (f : Flg) : Observes s (t.setFlg f) := h.then rfl
theorem Observes.setSp (h : Observes s t) (v : Word) : Observes s (t.setSp v) := h.then rfl
theorem Observes.setFb (h : Observes s t) (v : Word) : Observes s (t.setFb v) := h.then rfl
theorem Observes.jump (h : Observes s t) (a : Addr) : Observes s (t.jump a) := h.then rfl
theorem Observes.openIpl (h : Observes s t) (n : Nat) : Observes s (t.openIpl n) := h.then rfl

theorem Observes.observing (h : Observes s t) : Observing s (.next t) := by
  rintro _ ⟨⟩
  exact h

theorem Observing.of_bus (h : t.bus = s.bus) : Observing s (.next t) := (Observes.of_bus h).observing

theorem Observing.after (h : Observes s t) (k : Observing t res) : Observing s res := fun u hu => h.trans (k u hu)

theorem Observing.then {f : State → Result} (h : Observing s res) (k : ∀ t, Observing t (f t)) :
    Observing s (andThen res f) := by
  intro u hu
  obtain ⟨t, ht, hu⟩ := andThen_eq_next.mp hu
  exact (h t ht).trans (k t u hu)

/-- An update of registers after an operation that may stop. -/
theorem Observing.next {f : State → State} (h : Observing s res) (k : ∀ t, (f t).bus = t.bus) :
    Observing s (andThen res fun t => .next (f t)) := h.then fun t => .of_bus (k t)

theorem Observing.ite {p : Prop} [Decidable p] (h : Observing s res) (h' : Observing s res') :
    Observing s (if p then res else res') := by
  split <;> assumption

theorem guarded_observing {i : Instr} {body : State → Result} (h : Observing s (body s)) :
    Observing s (guarded i body s) := fun t ht => h t (guarded_eq_next.mp ht).2

theorem sequential_observing {i : Instr} {body : State → Result} (h : Observing s (body s)) :
    Observing s (sequential i body s) := guarded_observing (h.next fun _ => rfl)

end

/-! Register updates. -/

section
variable (s : State)

theorem setAreg_bus (r : AReg) (v : Word) : (s.setAreg r v).bus = s.bus := by cases r <;> rfl
theorem setDreg16_bus (r : DReg) (v : Word) : (s.setDreg16 r v).bus = s.bus := by cases r <;> rfl
theorem setDreg8_bus (r : DReg) (v : Byte) : (s.setDreg8 r v).bus = s.bus := by cases r <;> rfl
theorem setReg16_bus (r : Reg16) (v : Word) : (s.setReg16 r v).bus = s.bus := by cases r <;> rfl
theorem setPair_bus (p : Pair) (v : BitVec 32) : (s.setPair p v).bus = s.bus := by cases p <;> rfl

theorem setCtx_bus (r : CtxReg) (v : Word) : (s.setCtx r v).bus = s.bus := by
  cases r with
  | reg r => exact setReg16_bus s r v
  | sb | fb => rfl

theorem shiftLong_bus (k : ShiftKind) (cnt : Bool × Nat) (p : DPair) : (shiftLong k cnt p s).bus = s.bus :=
  setPair_bus s (dpairPair p) _

theorem shiftLongByR1H_bus (k : ShiftKind) (p : DPair) : (shiftLongByR1H k p s).bus = s.bus := by
  unfold shiftLongByR1H
  split
  · rfl
  · split
    · exact setPair_bus s (dpairPair p) _
    · exact shiftLong_bus s k _ p

theorem decByte_bus (sub : Bool) (v : Byte) (cin : Bool) : (decByte sub v cin s).bus = s.bus := by
  unfold decByte
  split <;> rfl

theorem decWord_bus (sub : Bool) (v : Word) (cin : Bool) : (decWord sub v cin s).bus = s.bus := by
  unfold decWord
  split <;> rfl

theorem divBy_bus (k : DivKind) (z : Size) (v : BitVec (Size.bits z)) : (divBy k z v s).bus = s.bus := by
  cases z <;> simp only [divBy] <;> split <;> rfl

theorem endIteration_bus (last : Bool) (n : Nat) : (endIteration last n s).bus = s.bus := by
  cases last <;> rfl

theorem setRmpaAcc_bus (z : Size) (v : Int) : (setRmpaAcc z v s).bus = s.bus := by
  cases z <;> rfl

end

/-! Reads. -/

section
variable (s : State)

theorem readByte_observes (a : Addr) : Observes s (readByte a s).2 := (readByte_observed a s).observes
theorem readWord_observes (a : Addr) : Observes s (readWord a s).2 := (readWord_observed a s).observes
theorem read24_observes (a : Addr) : Observes s (read24 a s).2 := (read24_observed a s).observes
theorem read32_observes (a : Addr) : Observes s (read32 a s).2 := (read32_observed a s).observes

theorem readMem_observes (z : Size) (a : Addr) : Observes s (readMem z a s).2 := by
  cases z
  · exact readByte_observes s a
  · exact readWord_observes s a

theorem readLoc_observes (z : Size) (l : Loc) : Observes s (readLoc z l s).2 := by
  cases l with
  | data | addr => cases z <;> exact .refl s
  | mem a => cases z <;> exact readMem_observes s _ a

theorem pop8_observes : Observes s (pop8 s).2 := (readByte_observes s (near s.sp)).setSp _
theorem pop16_observes : Observes s (pop16 s).2 := (readWord_observes s (near s.sp)).setSp _

theorem popSized_observes (z : Size) : Observes s (popSized z s).2 := by
  cases z
  · exact pop8_observes s
  · exact pop16_observes s

theorem popReturn_observes : Observes s (pop8 (pop16 s).2).2 := (pop16_observes s).trans (pop8_observes _)

theorem exitd_observes : Observes s (pop8 (pop16 (fbRestored s)).2).2 :=
  ((((Observes.refl s).setSp s.bank.fb).trans (pop16_observes _)).setFb _).trans (popReturn_observes _)

theorem taskInfo_observes (num : BitVec 16) (table : BitVec 20) : Observes s (taskInfo num table s).2.2 :=
  (readByte_observes s _).trans ((readByte_observes _ _).trans (readByte_observes _ _))

theorem jmpWTarget_observes (src : JmpW) : Observes s (jmpWTarget src s).2 := by
  cases src with
  | reg r => exact .refl s
  | mem e => exact readWord_observes s (s.jmpEa e)

theorem jmpATarget_observes (src : JmpA) : Observes s (jmpATarget src s).2 := by
  cases src with
  | pair p => exact .refl s
  | mem e => exact read24_observes s (s.jmpEa e)

theorem specialTarget_observes (n : BitVec 8) : Observes s (specialTarget n s).2 :=
  readWord_observes s (specialEntry n)

end

theorem popRegs_observes (l : List CtxReg) (s : State) : Observes s (popRegs l s) := by
  induction l generalizing s with
  | nil => exact .refl s
  | cons r l ih => exact ((pop16_observes s).then (setCtx_bus _ r _)).trans (ih _)

theorem loadRegs_observes (l : List CtxReg) (p : Word) (s : State) : Observes s (loadRegs l p s) := by
  induction l generalizing p s with
  | nil => exact .refl s
  | cons r l ih => exact ((readWord_observes s (near p)).then (setCtx_bus _ r _)).trans (ih _ _)

/-! Stores. -/

section
variable {s t : State} {k : StoreKind} {a : Addr}

theorem busWrite_observed {v : Byte} (h : busWrite k a v s = .next t) : Observed [] s t := by
  unfold busWrite at h
  split at h
  · cases h
  · split at h
    · cases h
    · cases h
      exact ⟨stored_polled k a v s, [], rfl, fun _ hb => absurd hb List.not_mem_nil⟩

theorem busWriteWord_observed {v : Word} (h : busWriteWord k a v s = .next t) : Observed [] s t := by
  obtain ⟨u, hu, ht⟩ := andThen_eq_next.mp h
  exact (busWrite_observed hu).trans (busWrite_observed ht)

theorem recordWrite_observed {w n : Nat} {v : BitVec w} {res : Result} (h : ∀ u, res = .next u → Observed [] s u)
    (ht : recordWrite a n v res = .next t) : Observed [] s t := by
  obtain ⟨u, hu, ⟨⟩⟩ := andThen_eq_next.mp ht
  exact record_write_observed a n _ (h u hu)

theorem writeByte_observed {v : Byte} (h : writeByte k a v s = .next t) : Observed [] s t :=
  recordWrite_observed (fun _ => busWrite_observed) h

theorem writeWord_observed {v : Word} (h : writeWord k a v s = .next t) : Observed [] s t :=
  recordWrite_observed (fun _ => busWriteWord_observed) h

theorem write24_observed {v : BitVec 24} (h : write24 k a v s = .next t) : Observed [] s t :=
  recordWrite_observed (fun u hu => by
    obtain ⟨w, hw, hu⟩ := andThen_eq_next.mp hu
    exact (busWriteWord_observed hw).trans (busWrite_observed hu)) h

theorem write32_observed {v : BitVec 32} (h : write32 k a v s = .next t) : Observed [] s t :=
  recordWrite_observed (fun u hu => by
    obtain ⟨w, hw, hu⟩ := andThen_eq_next.mp hu
    exact (busWriteWord_observed hw).trans (busWriteWord_observed hu)) h

theorem push16_observed {v : Word} (h : push16 v s = .next t) : Observed [] s t :=
  (Observed.of_bus (s := s) (t := s.setSp (s.sp - 2)) rfl).trans (writeWord_observed h)

end

section
variable (s : State) (k : StoreKind)

theorem writeByte_observing (a : Addr) (v : Byte) : Observing s (writeByte k a v s) := fun _ h =>
  (writeByte_observed h).observes
theorem writeWord_observing (a : Addr) (v : Word) : Observing s (writeWord k a v s) := fun _ h =>
  (writeWord_observed h).observes
theorem write24_observing (a : Addr) (v : BitVec 24) : Observing s (write24 k a v s) := fun _ h =>
  (write24_observed h).observes
theorem write32_observing (a : Addr) (v : BitVec 32) : Observing s (write32 k a v s) := fun _ h =>
  (write32_observed h).observes

theorem writeMem_observing (z : Size) (a : Addr) (v : BitVec (Size.bits z)) : Observing s (writeMem k z a v s) := by
  cases z
  · exact writeByte_observing s k a v
  · exact writeWord_observing s k a v

theorem writeLoc_observing (z : Size) (l : Loc) (v : BitVec (Size.bits z)) : Observing s (writeLoc k z l v s) := by
  cases z <;> cases l
  case b.data r => exact .of_bus (setDreg8_bus s r v)
  case w.data r => exact .of_bus (setDreg16_bus s r v)
  case b.addr a | w.addr a => exact .of_bus (setAreg_bus s a _)
  case b.mem a => exact writeByte_observing s k a v
  case w.mem a => exact writeWord_observing s k a v

theorem push8_observing (v : Byte) : Observing s (push8 v s) :=
  .after ((Observes.refl s).setSp _) (writeByte_observing _ .other _ v)

theorem push16_observing (v : Word) : Observing s (push16 v s) := fun _ h => (push16_observed h).observes

theorem pushSized_observing (z : Size) (v : BitVec (Size.bits z)) : Observing s (pushSized z v s) := by
  cases z
  · exact push8_observing s v
  · exact push16_observing s v

theorem pushRet_observing (ret : Addr) : Observing s (pushRet ret s) :=
  (push8_observing s _).then fun t => push16_observing t _

theorem callTo_observing (a : Addr) (n : Nat) : Observing s (callTo a n s) :=
  (pushRet_observing s _).next fun _ => rfl

end

theorem pushRegs_observing (l : List CtxReg) (s : State) : Observing s (pushRegs l s) := by
  induction l generalizing s with
  | nil => exact .of_bus rfl
  | cons r l ih => exact (push16_observing s _).then ih

theorem storeRegs_observing (l : List CtxReg) (p : Word) (s : State) : Observing s (storeRegs l p s) := by
  induction l generalizing p s with
  | nil => exact .of_bus rfl
  | cons r l ih => exact (writeWord_observing s .other _ _).then (ih _)

/-! Operands, bits and iterations. -/

section
variable (s : State)

theorem aluTo_observing (op : AluOp) (z : Size) (v : BitVec (Size.bits z)) (l : Loc) :
    Observing s (aluTo op z v l s) := by
  cases z <;> cases l
  case b.addr a => exact .of_bus (setAreg_bus _ a _)
  all_goals
    simp only [aluTo]
    exact .after ((readLoc_observes s _ _).setFlg _) (writeLoc_observing _ .other _ _ _)

theorem aluTest_observing (op : AluOp) (z : Size) (v : BitVec (Size.bits z)) (l : Loc) :
    Observing s (aluTest op z v l s) := by
  cases z <;> cases l
  case b.addr a => exact .of_bus rfl
  all_goals exact ((readLoc_observes s _ _).setFlg _).observing

theorem unaryTo_observing (op : UnaryOp) (z : Size) (l : Loc) : Observing s (unaryTo op z l s) :=
  .after ((readLoc_observes s z l).setFlg _) (writeLoc_observing _ .other z l _)

theorem moveTo_observing (k : StoreKind) (z : Size) (v : BitVec (Size.bits z)) (l : Loc) :
    Observing s (moveTo k z v l s) := by
  cases z <;> cases l
  case b.addr a => exact .of_bus (setAreg_bus _ a _)
  all_goals
    simp only [moveTo]
    exact .after ((Observes.refl s).setFlg _) (writeLoc_observing _ k _ _ _)

theorem withSrc_observing {z : Size} {src dst : Loc} {f : BitVec (Size.bits z) → Loc → State → Result}
    (h : ∀ v t, Observing t (f v dst t)) : Observing s (withSrc z src dst f s) :=
  .after (readLoc_observes s z src) (h _ _)

theorem steTo_observing (z : Size) (src : Operand) (far : Addr) : Observing s (steTo z src far s) :=
  .after ((readLoc_observes s z (s.loc src)).setFlg _) (writeMem_observing _ .other z far _)

theorem ldeFrom_observing (z : Size) (far : Addr) (dst : Operand) : Observing s (ldeFrom z far dst s) :=
  .after (readMem_observes s z far) (moveTo_observing _ .other z _ _)

theorem xchgWith_observing (z : Size) (r : DReg) (l : Loc) : Observing s (xchgWith z r l s) := by
  cases z <;> cases l
  case b.addr a => exact .of_bus ((setDreg8_bus _ r _).trans (setAreg_bus s a _))
  case w.data | w.addr | w.mem =>
    simp only [xchgWith]
    exact .after (readLoc_observes s _ _) ((writeLoc_observing _ .other _ _ _).next fun t => setDreg16_bus t r _)
  all_goals
    simp only [xchgWith]
    exact .after (readLoc_observes s _ _) ((writeLoc_observing _ .other _ _ _).next fun t => setDreg8_bus t r _)

theorem drawnFlags_observes (f : Flg) (n : Nat) : Observes s { s with flg := f, draws := n } := .of_bus rfl

theorem shiftUndefined_observing (k : ShiftKind) (z : Size) (l : Loc) : Observing s (shiftUndefined k z l s) :=
  .after ((readLoc_observes s z l).trans (drawnFlags_observes _ _ _)) (writeLoc_observing _ .other z l _)

theorem shiftByR1H_observing (k : ShiftKind) (z : Size) (l : Loc) : Observing s (shiftByR1H k z l s) :=
  .ite (.of_bus rfl) (.ite (shiftUndefined_observing s k z l) (unaryTo_observing s _ z l))

theorem mulTo_observing (signed : Bool) (z : Size) (v : BitVec (Size.bits z)) (l : Loc) :
    Observing s (mulTo signed z v l s) := by
  cases z <;> cases l
  case b.data r => cases r <;> exact ((readLoc_observes s .b _).then (setDreg16_bus _ _ _)).observing
  case w.data r => cases r <;> exact ((readLoc_observes s .w _).then (setPair_bus _ _ _)).observing
  case b.addr a => exact ((readLoc_observes s .b (.addr a)).then (setAreg_bus _ _ _)).observing
  case w.addr a => exact ((readLoc_observes s .w (.addr a)).then (setPair_bus _ _ _)).observing
  case b.mem a => exact .after (readLoc_observes s .b (.mem a)) (writeWord_observing _ .other a _)
  case w.mem a => exact .after (readLoc_observes s .w (.mem a)) (write32_observing _ .other a _)

theorem extsTo_observing (l : Loc) : Observing s (extsTo l s) := by
  cases l with
  | data r => cases r <;> exact (((readLoc_observes s .b _).setFlg _).then (setDreg16_bus _ _ _)).observing
  | addr a => exact (((readLoc_observes s .b (.addr a)).setFlg _).then (setAreg_bus _ _ _)).observing
  | mem a => exact .after ((readLoc_observes s .b (.mem a)).setFlg _) (writeWord_observing _ .other a _)

theorem divByLoc_observes (k : DivKind) (z : Size) (l : Loc) : Observes s (divByLoc k z l s) :=
  (readLoc_observes s z l).then (divBy_bus _ k z _)

theorem bitTest_observing (l : BitLoc) (f : Bool → Flg → Flg) : Observing s (bitTest l f s) := by
  cases l with
  | reg r n => exact .of_bus rfl
  | mem a n => exact ((readByte_observes s a).setFlg _).observing

theorem bitModify_observing (l : BitLoc) (new : Bool → Bool) (f : Bool → Flg → Flg) :
    Observing s (bitModify l new f s) := by
  cases l with
  | reg r n => exact .of_bus (setReg16_bus _ r _)
  | mem a n => exact .after ((readByte_observes s a).setFlg _) (writeByte_observing _ .other a _)

theorem addJump_observing (z : Size) (v : BitVec (Size.bits z)) (l : Loc) (d : BitVec 8) (n : Nat) :
    Observing s (addJump z v l d n s) :=
  .after (readLoc_observes s z l) ((writeLoc_observing _ .other z l _).next fun t => by split <;> rfl)

/-- A jump that may be taken or not. -/
theorem jumpIf_observing (c : Bool) (a : Addr) (n : Nat) :
    Observing s (.next (if c then s.jump a else s.advance n)) := .of_bus (by cases c <;> rfl)

/-- One iteration of a string instruction: a store, and then the counters. -/
theorem iteration_observing {s' : State} (z : Size) (a : Addr) (v : BitVec (Size.bits z)) (len : Nat)
    (k : State → Bank) (h : Observes s s') : Observing s (andThen (writeMem .other z a v s') fun u =>
      .next (endIteration (u.bank.r3 == 1#16) len (u.setBank (k u)))) :=
  .after h ((writeMem_observing s' .other z a v).next fun u => endIteration_bus (u.setBank (k u)) _ len)

theorem smovbStep_observing (z : Size) (len : Nat) : Observing s (smovbStep z len s) :=
  .ite (.of_bus rfl) (iteration_observing s z _ _ len _ (readMem_observes s z s.stringSrc))

theorem smovfStep_observing (z : Size) (len : Nat) : Observing s (smovfStep z len s) :=
  .ite (.of_bus rfl) (iteration_observing s z _ _ len _ (readMem_observes s z s.stringSrc))

theorem sstrStep_observing (z : Size) (len : Nat) : Observing s (sstrStep z len s) :=
  .ite (.of_bus rfl) (iteration_observing s z _ _ len _ (.refl s))

theorem rmpaStep_observes (z : Size) (len : Nat) : Observes s (rmpaStep z len s) := by
  have hread := (readMem_observes s z (near s.bank.a0)).trans (readMem_observes _ z (near s.bank.a1))
  unfold rmpaStep
  split
  · exact .of_bus rfl
  · dsimp only
    split
    · exact hread.then (setRmpaAcc_bus _ z _)
    · split
      · exact hread.then (setRmpaAcc_bus _ z _)
      · exact hread.then (setRmpaAcc_bus _ z _)

theorem returnFromInterrupt_observing : Observing s (returnFromInterrupt s) :=
  ((((((Observes.refl s).openIpl _).trans (pop16_observes _)).trans (pop16_observes _)).jump _).setFlg _).observing

end

/-- The interrupt sequence reads its vector, and nothing else. -/
theorem intSeq_observed {vec ret : Addr} {clearU : Bool} {level : Option (BitVec 3)} {s t : State}
    (h : intSeq vec ret clearU level s = .next t) : Observed (accessBytes vec 4) s t := by
  obtain ⟨v, u, hv, hu, rfl⟩ := intSeq_eq_next.mp h
  have hflg : Observed [] s (s.setFlg (seqFlags clearU s.flg)) := .of_bus rfl
  have hready : Observed [] u (seqReady level u) := .of_bus rfl
  have hjump (w : State) (a : Addr) : Observed [] w (w.jump a) := .of_bus rfl
  have hread := (read32_observed vec (seqReady level u)).trans
    (hjump _ ((read32 vec (seqReady level u)).1.extractLsb' 0 20))
  simpa using (hflg.trans ((push16_observed hv).trans (push16_observed hu))).trans (hready.trans hread)

theorem intSeq_observing (vec ret : Addr) (clearU : Bool) (level : Option (BitVec 3)) (s : State) :
    Observing s (intSeq vec ret clearU level s) := fun _ h => (intSeq_observed h).observes

/-! Every instruction. -/

section
variable (s : State)

theorem loadCreg_bus (c : CReg) (v : Word) (before : State) : (loadCreg c v before s).bus = s.bus := by
  cases c <;> rfl

theorem execStcPc_observing (dst : PcDest) : Observing s (execStcPc dst s) := by
  refine sequential_observing ?_
  cases dst with
  | pair p => exact .of_bus (setPair_bus s p _)
  | mem e => exact write24_observing s .other _ _

/-- Every instruction but `POPC`, which may end the windows of the sources besides. -/
theorem exec_observing {i : Instr} (h : ∀ c, i ≠ .popc c) : Observing s (exec i s) := by
  cases i <;> unfold exec <;> dsimp only
  case jmpS | jmpB | jmpW | jmpA => exact guarded_observing (.of_bus rfl)
  case jcnd8 | jcnd16 => exact guarded_observing (jumpIf_observing s _ _ _)
  case jmpiA src => exact guarded_observing ((jmpATarget_observes s src).jump _).observing
  case jmpiW src => exact guarded_observing ((jmpWTarget_observes s src).jump _).observing
  case jmps n => exact guarded_observing ((specialTarget_observes s n).jump _).observing
  case jsrW | jsrA => exact guarded_observing (callTo_observing s _ _)
  case jsriA src => exact guarded_observing (.after (jmpATarget_observes s src) (callTo_observing _ _ _))
  case jsriW src => exact guarded_observing (.after (jmpWTarget_observes s src) (callTo_observing _ _ _))
  case jsrs n =>
    exact guarded_observing ((pushRet_observing s _).then fun t => ((specialTarget_observes t n).jump _).observing)
  case rts => exact guarded_observing ((popReturn_observes s).jump _).observing
  case exitd => exact guarded_observing ((exitd_observes s).jump _).observing
  case adjnz | sbjnz => exact guarded_observing (addJump_observing s _ _ _ _ _)
  case brk => exact guarded_observing (.after (read32_observes s Config.brkVector) (intSeq_observing _ _ _ _ _))
  case int | und => exact guarded_observing (intSeq_observing _ _ _ _ s)
  case into => exact guarded_observing (.ite (intSeq_observing _ _ _ _ s) (.of_bus rfl))
  case reit => exact guarded_observing (returnFromInterrupt_observing s)
  case smovf sz => exact guarded_observing (smovfStep_observing s sz 2)
  case smovb sz => exact guarded_observing (smovbStep_observing s sz 2)
  case sstr sz => exact guarded_observing (sstrStep_observing s sz 2)
  case rmpa sz => exact guarded_observing (rmpaStep_observes s sz 2).observing
  case addGImm | addQ | adcImm | subGImm | sbbImm | addBSImm | subBSImm | andGImm | orGImm | xorImm | andBSImm |
      orBSImm => exact sequential_observing (aluTo_observing s _ _ _ _)
  case addGSrc | adcSrc | subGSrc | sbbSrc | andGSrc | orGSrc | xorSrc | addBSSrc | subBSSrc | andBSSrc | orBSSrc =>
    exact sequential_observing (withSrc_observing s fun _ t => aluTo_observing t _ _ _ _)
  case cmpGImm | cmpQ | cmpBSImm | tstImm => exact sequential_observing (aluTest_observing s _ _ _ _)
  case cmpGSrc | cmpBSSrc | tstSrc =>
    exact sequential_observing (withSrc_observing s fun _ t => aluTest_observing t _ _ _ _)
  case neg | adcf | rolc | rorc | notG | notBS | incB | decB | rotImm | shaImm | shlImm | incW | decW =>
    exact sequential_observing (unaryTo_observing s _ _ _)
  case abs => exact sequential_observing (.after (t := (drawBit s).2) (.of_bus rfl) (unaryTo_observing _ _ _ _))
  case rotR1H | shaR1H | shlR1H => exact sequential_observing (shiftByR1H_observing s _ _ _)
  case shaLImm n p | shlLImm n p => exact sequential_observing (.of_bus (shiftLong_bus s _ _ p))
  case shaLR1H p | shlLR1H p => exact sequential_observing (.of_bus (shiftLongByR1H_bus s _ p))
  case daddBImm | dadcBImm | daddBReg | dadcBReg | dsubBImm | dsbbBImm | dsubBReg | dsbbBReg =>
    exact sequential_observing (.of_bus (decByte_bus s _ _ _))
  case daddWImm | dadcWImm | daddWReg | dadcWReg | dsubWImm | dsbbWImm | dsubWReg | dsbbWReg =>
    exact sequential_observing (.of_bus (decWord_bus s _ _ _))
  case band | bnand | bor | bnor | bxor | bnxor | btstG | btstS | bntst =>
    exact sequential_observing (bitTest_observing s _ _)
  case btstc | btsts | bclrG | bsetG | bnotG | bmcnd | bclrS | bsetS | bnotS =>
    exact sequential_observing (bitModify_observing s _ _ _)
  case bmcndC | addGSp | addQSp | extsW | nop | wait | ldipl | fset | fclr | ldintb =>
    exact sequential_observing (.of_bus rfl)
  case movGSrc | movGFromSp | movGToSp | movBSSrcHalf | movBSSrcAn =>
    exact sequential_observing (withSrc_observing s fun _ t => moveTo_observing t _ _ _ _)
  case movGImm | movQ | movBSImm | movBZ | movBSHalfDest | movWSImmAn | movBSImmAn =>
    exact sequential_observing (moveTo_observing s _ _ _ _)
  case mova r => exact sequential_observing (.of_bus (setReg16_bus s r _))
  case movDirToR0L src =>
    exact sequential_observing ((readLoc_observes s .b (s.loc src)).then (setDreg8_bus _ .d0 _)).observing
  case movDirFromR0L dst =>
    exact sequential_observing (.after (readLoc_observes s .b (s.loc dst)) (writeLoc_observing _ .other .b _ _))
  case ldeAbs20 | ldeDsp20 | ldeA1A0 => exact sequential_observing (ldeFrom_observing s _ _ _)
  case steAbs20 | steDsp20 | steA1A0 => exact sequential_observing (steTo_observing s _ _ _)
  case stz => exact sequential_observing (.ite (writeLoc_observing s .other .b _ _) (Observes.refl s).observing)
  case stnz => exact sequential_observing (.ite (Observes.refl s).observing (writeLoc_observing s .other .b _ _))
  case stzx | stcDest => exact sequential_observing (writeLoc_observing s .other _ _ _)
  case xchg => exact sequential_observing (xchgWith_observing s _ _ _)
  case stcPc dst => exact execStcPc_observing s dst
  case pushGImm => exact sequential_observing (pushSized_observing s _ _)
  case pushG z src => exact sequential_observing (.after (readLoc_observes s z (s.loc src)) (pushSized_observing _ _ _))
  case pushBS => exact sequential_observing (push8_observing s _)
  case pushWS | pusha | pushc => exact sequential_observing (push16_observing s _)
  case pushm => exact sequential_observing (pushRegs_observing _ s)
  case popG z dst => exact sequential_observing (.after (popSized_observes s z) (writeLoc_observing _ .other z _ _))
  case popBS => exact sequential_observing ((pop8_observes s).then (setDreg8_bus _ _ _)).observing
  case popWS => exact sequential_observing ((pop16_observes s).then (setAreg_bus _ _ _)).observing
  case popm => exact sequential_observing (popRegs_observes _ s).observing
  case mulImm | muluImm => exact sequential_observing (mulTo_observing s _ _ _ _)
  case mulSrc | muluSrc => exact sequential_observing (withSrc_observing s fun _ t => mulTo_observing t _ _ _ _)
  case extsB => exact sequential_observing (extsTo_observing s _)
  case divImm | divuImm | divxImm => exact sequential_observing (.of_bus (divBy_bus s _ _ _))
  case divSrc | divuSrc | divxSrc => exact sequential_observing (divByLoc_observes s _ _ _).observing
  case enter => exact sequential_observing ((push16_observing s _).next fun _ => rfl)
  case ldctx num table =>
    exact sequential_observing (((taskInfo_observes s num table).trans (loadRegs_observes _ _ _)).setSp _).observing
  case stctx num table =>
    exact sequential_observing (.after (taskInfo_observes s num table)
      ((storeRegs_observing _ _ _).next fun _ => rfl))
  case ldcImm v c => exact sequential_observing (.of_bus (loadCreg_bus s c v s))
  case ldcSrc src c =>
    exact sequential_observing ((readLoc_observes s .w (s.loc src)).then (loadCreg_bus _ c _ s)).observing
  case popc c => exact absurd rfl (h c)

end

section
variable {i : Instr} {s t u : State} {r : List Addr} {x y : Source}

theorem ended_bus (h : ∀ c, i ≠ .popc c) (s u : State) : (ended i s u).bus = u.bus := by
  have hwindows : windowsEnded i s u = u := by
    cases i with
    | popc c => exact absurd rfl (h c)
    | _ => rfl
  unfold ended
  split
  · rfl
  · rw [hwindows]
    rfl

theorem popcRead_observes (c : CReg) (s : State) : Observes s (popcRead c s) := by
  have hread := readWord_observes s (near s.sp)
  unfold popcRead
  split
  · exact hread
  · exact hread.setSp _

/-- What an instruction did before its end, the requests included. -/
theorem exec_ran_observes (ht : exec i s = .next t) :
    ∃ u, Effect (storedTo i s) (changedParts i s) s u ∧ Observes s u ∧ t = ended i s u := by
  by_cases hp : ∃ c, i = .popc c
  · obtain ⟨c, rfl⟩ := hp
    cases (exec_popc c s).symm.trans ht
    exact ⟨_, popc_effect c s, (popcRead_observes c s).then (loadCreg_bus _ c _ s), rfl⟩
  · have hno : ∀ c, i ≠ .popc c := fun c hc => hp ⟨c, hc⟩
    obtain ⟨u, hu, rfl⟩ := exec_ran ht
    exact ⟨u, hu, (exec_observing s hno _ ht).then (ended_bus hno s u).symm, rfl⟩

/-- The end of an instruction may end the windows of a source, and leaves the rest of it. -/
theorem ended_getElem? {k : Nat} (hy : u.sources[k]? = some y) :
    ∃ l, (ended i s u).sources[k]? = some { y with old := l } := by
  have hmap : (afterPopc s u).sources[k]? = some y ∨ (afterPopc s u).sources[k]? = some { y with old := [] } := by
    unfold afterPopc
    split
    · exact .inr (by simp [hy])
    · exact .inl hy
  by_cases hp : ∃ c, i = .popc c
  · obtain ⟨c, rfl⟩ := hp
    exact hmap.elim (fun h => ⟨y.old, h⟩) fun h => ⟨[], h⟩
  · have hbus := ended_bus (fun c hc => hp ⟨c, hc⟩) s u
    simp only [State.bus, Prod.mk.injEq] at hbus
    exact ⟨y.old, by rw [hbus.2.1, hy]⟩

/-- Where nothing is stored to a source's register, its level stays, and its request bit changes by reads only. -/
theorem Observed.source {l : List Addr} {c : List Part} (hr : Observed r s u) (hu : Effect l c s u) {k : Nat}
    (hx : s.sources[k]? = some x) : ∃ y : Source, u.sources[k]? = some y ∧ (x.icr ∉ l →
      y.ilvl = x.ilvl ∧ (x.icr ∉ r → y.ir = true → x.ir = true) ∧ (0#20 ∉ r → x.ir = true → y.ir = true)) := by
  obtain ⟨y, hy, hkept⟩ := hr.sources k x hx
  obtain ⟨y', hy', hopened⟩ := hu.windows k x hx
  obtain rfl : y = y' := Option.some.inj (hy.symm.trans hy')
  refine ⟨y, hy, fun hmem => ?_⟩
  obtain ⟨hlevel, hold⟩ := hopened.kept (List.count_eq_zero_of_not_mem hmem)
  have hlength := congrArg List.length hold
  exact ⟨hlevel, hkept.raised hlength, hkept.cleared hlength⟩

theorem Acts.keeps_of_next {l : List Addr} (h : Acts l s (.next t)) : Keeps l s t := by
  rcases h with ⟨-, u, hu, hkeeps⟩ | ⟨_, -, -, he⟩ | ⟨_, -, -, -, he⟩
  · cases hu
    exact hkeeps
  · cases he
  · cases he

theorem exec_keeps (ht : exec i s = .next t) : Keeps (storedTo i s) s t := by
  have hwf : i.wellFormed = true := by
    by_contra hno
    rw [exec_illFormed (by simpa using hno)] at ht
    cases ht
  exact (ht ▸ exec_acts hwf s).keeps_of_next

theorem Keeps.source_shape {l : List Addr} (h : Keeps l s t) {k : Nat} (hx : s.sources[k]? = some x)
    (hy : t.sources[k]? = some y) : y.num = x.num ∧ y.icr = x.icr := by
  have hk := congrArg (fun m => m[k]?) h.shape
  simpa [hx, hy] using hk

end

/-- Settles O17: the relation `Observes`, carried through every instruction, with the windows that its stores open. -/
theorem environmentFrame : Obligations.EnvironmentFrame := by
  intro i s t ht
  have hkeeps := exec_keeps ht
  have hreq := hkeeps.requests
  simp only [Prod.mk.injEq] at hreq
  obtain ⟨hnmi, hwdt, hdbc, hstep, hreset, hmatch⟩ := hreq
  have hlength : t.sources.length = s.sources.length := by simpa using congrArg List.length hkeeps.shape
  obtain ⟨u, hu, ⟨r, hr⟩, rfl⟩ := exec_ran_observes ht
  obtain ⟨added, htrace, hread⟩ := hr.trace
  have hunread (b : Addr) (hsfr : s.isSfr b = true) (hno : ∀ e ∈ added, e.dir = .read → ¬e.covers b) : b ∉ r := by
    intro hb
    obtain ⟨e, he, hdir, hcovers⟩ := hread b hb hsfr
    exact hno e he hdir hcovers
  refine ⟨hkeeps.product, hkeeps.matchRegs, hnmi, hwdt, hdbc, hstep, hmatch, hreset, hlength, added, ?_, ?_⟩
  · obtain ⟨l, a, q, hended⟩ := ended_eq i s u
    rw [hended]
    exact htrace
  · intro k x hx
    obtain ⟨y, hy, hkept⟩ := hr.source hu hx
    obtain ⟨l, hz⟩ := ended_getElem? (i := i) (s := s) hy
    obtain ⟨hnum, hicr⟩ := hkeeps.source_shape hx hz
    refine ⟨_, hz, hnum, hicr, fun hmem => ?_⟩
    obtain ⟨hlevel, hraised, hcleared⟩ := hkept hmem
    exact ⟨hlevel, fun hsfr hno => hraised (hunread _ hsfr hno), fun hsfr hno => hcleared (hunread _ hsfr hno)⟩

end Sys2Proof.Machine
end

section
/-! PROOFS. An accepted hardware interrupt (R541, R546 to R550, R554, R556, R561, R563, R570). -/

namespace Sys2Proof.Machine

/-! The step that accepts a request. -/

/-- Where requests are examined, a chosen one is accepted; an address match that arises there stays pending (R556). -/
theorem step_of_accepted {s : State} {src : HwSource} (hex : s.examined) (h : (chooseHw s).1 = some src) :
    step s = acceptHw src { s with draws := (chooseHw s).2, matchReq := s.matchPending } := by
  obtain ⟨hreset, hopen⟩ := hex
  have hchoice : chooseHw s = (some src, (chooseHw s).2) := Prod.ext h rfl
  have hshadow : (s.intShadow && !s.waiting) = false := by rcases hopen with h | h <;> simp [h]
  unfold step cpuStep
  rw [hreset, hshadow, hchoice]
  rfl

/-- The state at an acceptance, before the request is consumed: nothing waits or is in progress. -/
def State.accepting (s : State) : State :=
  { s with draws := (chooseHw s).2, matchReq := s.matchPending, waiting := false, resume := none, prevI := none }

/-- The special requests pending. -/
structure SameRequests (s t : State) : Prop where
  nmi : t.nmiReq = s.nmiReq
  watchdog : t.wdtReq = s.wdtReq
  dbc : t.dbcReq = s.dbcReq
  step : t.stepReq = s.stepReq
  addressMatch : t.matchReq = s.matchReq

section
variable {vec ret : Addr} {level : Option (BitVec 3)} {s u : State}

/-- The sequence of an accepted interrupt consumes no further request. -/
theorem intSeq_accepted (hresume : s.resume = none) (h : intSeq vec ret true level s = .next u) :
    accepted vec ret level s u.tick ∧ SameRequests s u.tick := by
  have hkeeps := (intSeq_effect h).keeps
  have hreq := hkeeps.requests
  simp only [Prod.mk.injEq] at hreq
  obtain ⟨hnmi, hwdt, hdbc, hstep, -, hmatch⟩ := hreq
  obtain ⟨hentered, -, hmem⟩ := intSeq_entered h
  exact ⟨⟨hentered, hkeeps.resume.trans hresume, hkeeps.product, hkeeps.matchRegs, hmem⟩,
    hnmi, hwdt, hdbc, hstep, hmatch⟩

/-- An acceptance that is the sequence from `s'`, where the frame can be stored. -/
theorem step_accepts {s' : State} {src : HwSource} (hex : s.examined) (h : (chooseHw s).1 = some src)
    (haccept : acceptHw src { s with draws := (chooseHw s).2, matchReq := s.matchPending } =
      andThen (intSeq vec ret true level s') fun u => .next u.tick)
    (hresume : s'.resume = none) (hw : ∀ a ∈ pushedBytes 2 s'.isp, s'.writable a = true) :
    ∃ t, step s = .next t ∧ accepted vec ret level s' t ∧ SameRequests s' t := by
  obtain ⟨u, hu⟩ := intSeq_completes (vec := vec) (ret := ret) (clearU := true) (level := level) hw
  rw [step_of_accepted hex h, haccept]
  exact ⟨u.tick, andThen_eq_next.mpr ⟨u, hu, rfl⟩, intSeq_accepted hresume hu⟩

end

/-- Settles O30: in each case the sequence, from a state in which the accepted request is consumed. -/
theorem acceptSpecial : Obligations.AcceptSpecial := by
  intro s hex hw
  refine ⟨fun h => ?nmi, fun h => ?dbc, fun h => ?watchdog, fun h => ?step, fun h => ?addressMatch⟩
  case nmi =>
    obtain ⟨t, ht, hacc, hreq⟩ := step_accepts (s' := { s.accepting with nmiReq := false }) hex h rfl rfl hw
    exact ⟨t, ht, hacc, hreq.nmi, hreq.watchdog, hreq.dbc, hreq.step, hreq.addressMatch⟩
  case dbc =>
    obtain ⟨t, ht, hacc, hreq⟩ := step_accepts (s' := { s.accepting with dbcReq := false }) hex h rfl rfl hw
    exact ⟨t, ht, hacc, hreq.dbc, hreq.nmi, hreq.watchdog, hreq.step, hreq.addressMatch⟩
  case watchdog =>
    obtain ⟨t, ht, hacc, hreq⟩ := step_accepts (s' := { s.accepting with wdtReq := false }) hex h rfl rfl hw
    exact ⟨t, ht, hacc, hreq.watchdog, hreq.nmi, hreq.dbc, hreq.step, hreq.addressMatch⟩
  case step =>
    obtain ⟨t, ht, hacc, hreq⟩ := step_accepts (s' := { s.accepting with stepReq := false }) hex h rfl rfl hw
    exact ⟨t, ht, hacc, hreq.step, hreq.nmi, hreq.watchdog, hreq.dbc, hreq.addressMatch⟩
  case addressMatch =>
    obtain ⟨t, ht, hacc, hreq⟩ := step_accepts
      (s' := { s.accepting with draws := (chooseHw s).2 + 1, matchReq := false }) hex h rfl rfl hw
    exact ⟨t, _, ht, hacc, hreq.addressMatch, hreq.nmi, hreq.watchdog, hreq.dbc, hreq.step⟩

/-! The sources at an acceptance. -/

section
variable {vec ret : Addr} {level : Option (BitVec 3)} {s u : State} {k : Nat} {x : Source}

theorem icrAt_clearIrAt_eq_none {l : List Source} {a : Addr} : icrAt (clearIrAt k l) a = none ↔ icrAt l a = none := by
  have hicr : (clearIrAt k l).map Source.icr = l.map Source.icr := by
    simpa [Function.comp_def] using congrArg (List.map Prod.snd) (clearIrAt_shape k l)
  rw [icrAt_eq_none, icrAt_eq_none, hicr]

theorem icr_ne_of_icrAt_eq_none {l : List Source} {a : Addr} (h : icrAt l a = none) (hx : l[k]? = some x) :
    x.icr ≠ a := by
  rintro rfl
  exact icrAt_eq_none.mp h (List.mem_map_of_mem (List.mem_of_getElem? hx))

/-- A sequence whose frame and vector cover no interrupt control register, and whose vector does not cover 00000h,
leaves every source its level and its request bit. -/
theorem intSeq_source (h : intSeq vec ret true level s = .next u)
    (hframe : ∀ a ∈ pushedBytes 2 s.isp, icrAt s.sources a = none)
    (hvec : ∀ a ∈ [vec, vec + 1, vec + 2, vec + 3], a ≠ 0#20 ∧ icrAt s.sources a = none)
    (hx : s.sources[k]? = some x) : ∃ y : Source, u.sources[k]? = some y ∧ y.ilvl = x.ilvl ∧ y.ir = x.ir := by
  have hbytes : accessBytes vec 4 = [vec, vec + 1, vec + 2, vec + 3] := by simp [accessBytes, List.range_succ]
  obtain ⟨y, hy, hkept⟩ := (hbytes ▸ intSeq_observed h).source (intSeq_effect h) hx
  obtain ⟨hlevel, hraised, hcleared⟩ := hkept fun hmem => icr_ne_of_icrAt_eq_none (hframe _ hmem) hx rfl
  have hset : y.ir = true → x.ir = true :=
    hraised fun hmem => icr_ne_of_icrAt_eq_none (hvec _ hmem).2 hx rfl
  have hstays : x.ir = true → y.ir = true := hcleared fun hmem => (hvec _ hmem).1 rfl
  exact ⟨y, hy, hlevel, Bool.eq_iff_iff.mpr ⟨hset, hstays⟩⟩

/-- The state in which the sequence of a peripheral interrupt starts: its request bit is cleared. -/
def State.acceptingPeripheral (k : Nat) (s : State) : State :=
  { s.accepting with sources := clearIrAt k s.sources }

theorem acceptingPeripheral_touches (k : Nat) (s : State) : Touches [] s.accepting (s.acceptingPeripheral k) :=
  ⟨rfl, fun _ _ => rfl, id, clearIrAt_shape k s.sources, fun _ => .inl, [], rfl⟩

theorem acceptingPeripheral_getElem? {j : Nat} {y : Source} (hy : s.sources[j]? = some y) :
    (s.acceptingPeripheral k).sources[j]? = some (if k = j then { y with ir := false } else y) := by
  simp [State.acceptingPeripheral, clearIrAt_getElem?, hy]

theorem step_of_acceptedPeripheral (hex : s.examined) (h : (chooseHw s).1 = some (.peripheral k))
    (hx : s.sources[k]? = some x) : step s = andThen (intSeq (s.intb + BitVec.ofNat 20 (4 * x.num.toNat)) s.pc true
      (some x.ilvl) (s.acceptingPeripheral k)) fun u => .next u.tick := by
  rw [step_of_accepted hex h, ← variableVector_eq]
  simp only [acceptHw, hx]
  rfl

end

/-- Settles O31: the sequence through the source's vector, from a state in which its request bit is cleared. -/
theorem acceptPeripheral : Obligations.AcceptPeripheral := by
  intro s k x hex hframe hchoice hx
  obtain ⟨u, hu⟩ := intSeq_completes (vec := s.intb + BitVec.ofNat 20 (4 * x.num.toNat)) (ret := s.pc) (clearU := true)
    (level := some x.ilvl) (s := s.acceptingPeripheral k) fun a ha => (hframe a ha).1
  have hstep : step s = .next u.tick :=
    (step_of_acceptedPeripheral hex hchoice hx).trans (andThen_eq_next.mpr ⟨u, hu, rfl⟩)
  obtain ⟨⟨hentered, hrest⟩, hreq⟩ := intSeq_accepted rfl hu
  refine ⟨u.tick, hstep, ⟨entered_of_touches (s := s.accepting) (acceptingPeripheral_touches k s) hentered, hrest⟩,
    hreq.step, hreq.addressMatch, fun hvec j y hy => ?_⟩
  obtain ⟨z, hz, hlevel, hir⟩ := intSeq_source hu (fun a ha => icrAt_clearIrAt_eq_none.mpr (hframe a ha).2)
    (fun a ha => (hvec a ha).imp_right icrAt_clearIrAt_eq_none.mpr) (acceptingPeripheral_getElem? hy)
  refine ⟨tickSource z, by simp [State.tick, hz], ?_, ?_⟩
  · rw [show (tickSource z).ilvl = z.ilvl from rfl, hlevel]
    split <;> rfl
  · rw [show (tickSource z).ir = z.ir from rfl, hir]
    by_cases hjk : k = j
    · simp [hjk]
    · simp [hjk, Ne.symm hjk]

end Sys2Proof.Machine
end
